-- ==== Sys2Proof/Word.lean ====
section
/-! DEFINITION. The word types of the machine (spec/00_scope.md R6, R7): every value is an unsigned bit
vector of a stated width unless a rule reads it as signed. -/

namespace Sys2Proof

/-- A byte of memory (R36). -/
abbrev Byte := BitVec 8

/-- A halfword. -/
abbrev Half := BitVec 16

/-- A general register's content (R34). -/
abbrev Word := BitVec 32

/-- A doubleword: a PSW image, a long floating-point image, an even-odd register pair. -/
abbrev DWord := BitVec 64

/-- A 24-bit address (R71). -/
abbrev Addr := BitVec 24

/-- A 4-bit register number, mask or length field of an instruction (R102 to R108). -/
abbrev RegNum := BitVec 4

/-- A 12-bit displacement (R109 a). -/
abbrev Disp := BitVec 12

/-- A condition code (R23). -/
abbrev CC := BitVec 2

end Sys2Proof
end

