-- ==== Sys2Proof/Syntax.lean ====
section
/-! DEFINITION. The instructions: one constructor per row of spec/opcode_table.json, in the table's order
(spec/30_encoding.md R111). A constructor holds EVERY bit of the encoding its opcode does not fix, the fields that a
rule ignores included (R114), so that no bit of an instruction is dropped. Field names are the spec's (R102 to R108):
`r1 r2 r3` register numbers, `x2` index, `b1 b2` base, `d1 d2` displacement, `m1 m3` mask, `i2` immediate byte,
`l l1 l2` length codes (one less than the byte count). -/

namespace Sys2Proof

/-- An instruction of the block. -/
inductive Instr where
  /-- SPM, opcode 04, RR, R176; `r2` is ignored. -/
  | spm (r1 r2 : RegNum)
  /-- BALR, opcode 05, RR, R344. -/
  | balr (r1 r2 : RegNum)
  /-- BCTR, opcode 06, RR, R348. -/
  | bctr (r1 r2 : RegNum)
  /-- BCR, opcode 07, RR, R341; `m1` is the branch mask. -/
  | bcr (m1 r2 : RegNum)
  /-- SSK, opcode 08, RR, R177. -/
  | ssk (r1 r2 : RegNum)
  /-- ISK, opcode 09, RR, R178. -/
  | isk (r1 r2 : RegNum)
  /-- SVC, opcode 0A, RR, R175. -/
  | svc (i : Byte)
  /-- BASR, opcode 0D, RR, R346. -/
  | basr (r1 r2 : RegNum)
  /-- MVCL, opcode 0E, RR, R309. -/
  | mvcl (r1 r2 : RegNum)
  /-- CLCL, opcode 0F, RR, R310. -/
  | clcl (r1 r2 : RegNum)
  /-- LPR, opcode 10, RR, R207. -/
  | lpr (r1 r2 : RegNum)
  /-- LNR, opcode 11, RR, R208. -/
  | lnr (r1 r2 : RegNum)
  /-- LTR, opcode 12, RR, R205. -/
  | ltr (r1 r2 : RegNum)
  /-- LCR, opcode 13, RR, R206. -/
  | lcr (r1 r2 : RegNum)
  /-- NR, opcode 14, RR, R281. -/
  | nr (r1 r2 : RegNum)
  /-- CLR, opcode 15, RR, R293. -/
  | clr (r1 r2 : RegNum)
  /-- OR, opcode 16, RR, R285. -/
  | or (r1 r2 : RegNum)
  /-- XR, opcode 17, RR, R289. -/
  | xr (r1 r2 : RegNum)
  /-- LR, opcode 18, RR, R201. -/
  | lr (r1 r2 : RegNum)
  /-- CR, opcode 19, RR, R228. -/
  | cr (r1 r2 : RegNum)
  /-- AR, opcode 1A, RR, R213. -/
  | ar (r1 r2 : RegNum)
  /-- SR, opcode 1B, RR, R216. -/
  | sr (r1 r2 : RegNum)
  /-- MR, opcode 1C, RR, R223. -/
  | mr (r1 r2 : RegNum)
  /-- DR, opcode 1D, RR, R226. -/
  | dr (r1 r2 : RegNum)
  /-- ALR, opcode 1E, RR, R219. -/
  | alr (r1 r2 : RegNum)
  /-- SLR, opcode 1F, RR, R221. -/
  | slr (r1 r2 : RegNum)
  /-- LPDR, opcode 20, RR, R402. -/
  | lpdr (r1 r2 : RegNum)
  /-- LNDR, opcode 21, RR, R403. -/
  | lndr (r1 r2 : RegNum)
  /-- LTDR, opcode 22, RR, R404. -/
  | ltdr (r1 r2 : RegNum)
  /-- LCDR, opcode 23, RR, R405. -/
  | lcdr (r1 r2 : RegNum)
  /-- HDR, opcode 24, RR, R406. -/
  | hdr (r1 r2 : RegNum)
  /-- LDR, opcode 28, RR, R407. -/
  | ldr (r1 r2 : RegNum)
  /-- CDR, opcode 29, RR, R408. -/
  | cdr (r1 r2 : RegNum)
  /-- ADR, opcode 2A, RR, R409. -/
  | adr (r1 r2 : RegNum)
  /-- SDR, opcode 2B, RR, R410. -/
  | sdr (r1 r2 : RegNum)
  /-- MDR, opcode 2C, RR, R411. -/
  | mdr (r1 r2 : RegNum)
  /-- DDR, opcode 2D, RR, R412. -/
  | ddr (r1 r2 : RegNum)
  /-- AWR, opcode 2E, RR, R413. -/
  | awr (r1 r2 : RegNum)
  /-- SWR, opcode 2F, RR, R414. -/
  | swr (r1 r2 : RegNum)
  /-- LPER, opcode 30, RR, R415. -/
  | lper (r1 r2 : RegNum)
  /-- LNER, opcode 31, RR, R416. -/
  | lner (r1 r2 : RegNum)
  /-- LTER, opcode 32, RR, R417. -/
  | lter (r1 r2 : RegNum)
  /-- LCER, opcode 33, RR, R418. -/
  | lcer (r1 r2 : RegNum)
  /-- HER, opcode 34, RR, R419. -/
  | her (r1 r2 : RegNum)
  /-- LRER, opcode 35, RR, R420. -/
  | lrer (r1 r2 : RegNum)
  /-- LER, opcode 38, RR, R421. -/
  | ler (r1 r2 : RegNum)
  /-- CER, opcode 39, RR, R422. -/
  | cer (r1 r2 : RegNum)
  /-- AER, opcode 3A, RR, R423. -/
  | aer (r1 r2 : RegNum)
  /-- SER, opcode 3B, RR, R424. -/
  | ser (r1 r2 : RegNum)
  /-- MER, opcode 3C, RR, R425. -/
  | mer (r1 r2 : RegNum)
  /-- DER, opcode 3D, RR, R426. -/
  | der (r1 r2 : RegNum)
  /-- AUR, opcode 3E, RR, R427. -/
  | aur (r1 r2 : RegNum)
  /-- SUR, opcode 3F, RR, R428. -/
  | sur (r1 r2 : RegNum)
  /-- STH, opcode 40, RX, R211. -/
  | sth (r1 x2 b2 : RegNum) (d2 : Disp)
  /-- LA, opcode 41, RX, R204. -/
  | la (r1 x2 b2 : RegNum) (d2 : Disp)
  /-- STC, opcode 42, RX, R300. -/
  | stc (r1 x2 b2 : RegNum) (d2 : Disp)
  /-- IC, opcode 43, RX, R299. -/
  | ic (r1 x2 b2 : RegNum) (d2 : Disp)
  /-- EX, opcode 44, RX, R152. -/
  | ex (r1 x2 b2 : RegNum) (d2 : Disp)
  /-- BAL, opcode 45, RX, R343. -/
  | bal (r1 x2 b2 : RegNum) (d2 : Disp)
  /-- BCT, opcode 46, RX, R347. -/
  | bct (r1 x2 b2 : RegNum) (d2 : Disp)
  /-- BC, opcode 47, RX, R340; `m1` is the branch mask. -/
  | bc (m1 x2 b2 : RegNum) (d2 : Disp)
  /-- LH, opcode 48, RX, R203. -/
  | lh (r1 x2 b2 : RegNum) (d2 : Disp)
  /-- CH, opcode 49, RX, R230. -/
  | ch (r1 x2 b2 : RegNum) (d2 : Disp)
  /-- AH, opcode 4A, RX, R215. -/
  | ah (r1 x2 b2 : RegNum) (d2 : Disp)
  /-- SH, opcode 4B, RX, R218. -/
  | sh (r1 x2 b2 : RegNum) (d2 : Disp)
  /-- MH, opcode 4C, RX, R225. -/
  | mh (r1 x2 b2 : RegNum) (d2 : Disp)
  /-- BAS, opcode 4D, RX, R345. -/
  | bas (r1 x2 b2 : RegNum) (d2 : Disp)
  /-- CVD, opcode 4E, RX, R513. -/
  | cvd (r1 x2 b2 : RegNum) (d2 : Disp)
  /-- CVB, opcode 4F, RX, R512. -/
  | cvb (r1 x2 b2 : RegNum) (d2 : Disp)
  /-- ST, opcode 50, RX, R210. -/
  | st (r1 x2 b2 : RegNum) (d2 : Disp)
  /-- N, opcode 54, RX, R282. -/
  | n (r1 x2 b2 : RegNum) (d2 : Disp)
  /-- CL, opcode 55, RX, R294. -/
  | cl (r1 x2 b2 : RegNum) (d2 : Disp)
  /-- O, opcode 56, RX, R286. -/
  | o (r1 x2 b2 : RegNum) (d2 : Disp)
  /-- X, opcode 57, RX, R290. -/
  | x (r1 x2 b2 : RegNum) (d2 : Disp)
  /-- L, opcode 58, RX, R202. -/
  | l (r1 x2 b2 : RegNum) (d2 : Disp)
  /-- C, opcode 59, RX, R229. -/
  | c (r1 x2 b2 : RegNum) (d2 : Disp)
  /-- A, opcode 5A, RX, R214. -/
  | a (r1 x2 b2 : RegNum) (d2 : Disp)
  /-- S, opcode 5B, RX, R217. -/
  | s (r1 x2 b2 : RegNum) (d2 : Disp)
  /-- M, opcode 5C, RX, R224. -/
  | m (r1 x2 b2 : RegNum) (d2 : Disp)
  /-- D, opcode 5D, RX, R227. -/
  | d (r1 x2 b2 : RegNum) (d2 : Disp)
  /-- AL, opcode 5E, RX, R220. -/
  | al (r1 x2 b2 : RegNum) (d2 : Disp)
  /-- SL, opcode 5F, RX, R222. -/
  | sl (r1 x2 b2 : RegNum) (d2 : Disp)
  /-- STD, opcode 60, RX, R429. -/
  | std (r1 x2 b2 : RegNum) (d2 : Disp)
  /-- LD, opcode 68, RX, R430. -/
  | ld (r1 x2 b2 : RegNum) (d2 : Disp)
  /-- CD, opcode 69, RX, R431. -/
  | cd (r1 x2 b2 : RegNum) (d2 : Disp)
  /-- AD, opcode 6A, RX, R432. -/
  | ad (r1 x2 b2 : RegNum) (d2 : Disp)
  /-- SD, opcode 6B, RX, R433. -/
  | sd (r1 x2 b2 : RegNum) (d2 : Disp)
  /-- MD, opcode 6C, RX, R434. -/
  | md (r1 x2 b2 : RegNum) (d2 : Disp)
  /-- DD, opcode 6D, RX, R435. -/
  | dd (r1 x2 b2 : RegNum) (d2 : Disp)
  /-- AW, opcode 6E, RX, R436. -/
  | aw (r1 x2 b2 : RegNum) (d2 : Disp)
  /-- SW, opcode 6F, RX, R437. -/
  | sw (r1 x2 b2 : RegNum) (d2 : Disp)
  /-- STE, opcode 70, RX, R438. -/
  | ste (r1 x2 b2 : RegNum) (d2 : Disp)
  /-- LE, opcode 78, RX, R439. -/
  | le (r1 x2 b2 : RegNum) (d2 : Disp)
  /-- CE, opcode 79, RX, R440. -/
  | ce (r1 x2 b2 : RegNum) (d2 : Disp)
  /-- AE, opcode 7A, RX, R441. -/
  | ae (r1 x2 b2 : RegNum) (d2 : Disp)
  /-- SE, opcode 7B, RX, R442. -/
  | se (r1 x2 b2 : RegNum) (d2 : Disp)
  /-- ME, opcode 7C, RX, R443. -/
  | me (r1 x2 b2 : RegNum) (d2 : Disp)
  /-- DE, opcode 7D, RX, R444. -/
  | de (r1 x2 b2 : RegNum) (d2 : Disp)
  /-- AU, opcode 7E, RX, R445. -/
  | au (r1 x2 b2 : RegNum) (d2 : Disp)
  /-- SU, opcode 7F, RX, R446. -/
  | su (r1 x2 b2 : RegNum) (d2 : Disp)
  /-- SSM, opcode 80, SI, R172; `i2` is ignored. -/
  | ssm (i2 : Byte) (b1 : RegNum) (d1 : Disp)
  /-- LPSW, opcode 82, SI, R171; `i2` is ignored. -/
  | lpsw (i2 : Byte) (b1 : RegNum) (d1 : Disp)
  /-- DIAG, opcode 83, RS, R187; handed to the host. -/
  | diag (r1 r3 b2 : RegNum) (d2 : Disp)
  /-- BXH, opcode 86, RS, R349. -/
  | bxh (r1 r3 b2 : RegNum) (d2 : Disp)
  /-- BXLE, opcode 87, RS, R350. -/
  | bxle (r1 r3 b2 : RegNum) (d2 : Disp)
  /-- SRL, opcode 88, RS, R234; `r3` is ignored, the second-operand address is the shift amount. -/
  | srl (r1 r3 b2 : RegNum) (d2 : Disp)
  /-- SLL, opcode 89, RS, R233; `r3` is ignored, the second-operand address is the shift amount. -/
  | sll (r1 r3 b2 : RegNum) (d2 : Disp)
  /-- SRA, opcode 8A, RS, R232; `r3` is ignored, the second-operand address is the shift amount. -/
  | sra (r1 r3 b2 : RegNum) (d2 : Disp)
  /-- SLA, opcode 8B, RS, R231; `r3` is ignored, the second-operand address is the shift amount. -/
  | sla (r1 r3 b2 : RegNum) (d2 : Disp)
  /-- SRDL, opcode 8C, RS, R238; `r3` is ignored, the second-operand address is the shift amount. -/
  | srdl (r1 r3 b2 : RegNum) (d2 : Disp)
  /-- SLDL, opcode 8D, RS, R237; `r3` is ignored, the second-operand address is the shift amount. -/
  | sldl (r1 r3 b2 : RegNum) (d2 : Disp)
  /-- SRDA, opcode 8E, RS, R236; `r3` is ignored, the second-operand address is the shift amount. -/
  | srda (r1 r3 b2 : RegNum) (d2 : Disp)
  /-- SLDA, opcode 8F, RS, R235; `r3` is ignored, the second-operand address is the shift amount. -/
  | slda (r1 r3 b2 : RegNum) (d2 : Disp)
  /-- STM, opcode 90, RS, R212. -/
  | stm (r1 r3 b2 : RegNum) (d2 : Disp)
  /-- TM, opcode 91, SI, R298. -/
  | tm (i2 : Byte) (b1 : RegNum) (d1 : Disp)
  /-- MVI, opcode 92, SI, R303. -/
  | mvi (i2 : Byte) (b1 : RegNum) (d1 : Disp)
  /-- TS, opcode 93, SI, R332; `i2` is ignored. -/
  | ts (i2 : Byte) (b1 : RegNum) (d1 : Disp)
  /-- NI, opcode 94, SI, R283. -/
  | ni (i2 : Byte) (b1 : RegNum) (d1 : Disp)
  /-- CLI, opcode 95, SI, R295. -/
  | cli (i2 : Byte) (b1 : RegNum) (d1 : Disp)
  /-- OI, opcode 96, SI, R287. -/
  | oi (i2 : Byte) (b1 : RegNum) (d1 : Disp)
  /-- XI, opcode 97, SI, R291. -/
  | xi (i2 : Byte) (b1 : RegNum) (d1 : Disp)
  /-- LM, opcode 98, RS, R209. -/
  | lm (r1 r3 b2 : RegNum) (d2 : Disp)
  /-- SIO, opcode 9C00, S, R181; `u` is bits 7 to 1 of the second byte, handed to the host unchanged (R114); handed to the host. -/
  | sio (u : BitVec 7) (b2 : RegNum) (d2 : Disp)
  /-- SIOF, opcode 9C01, S, R182; `u` is bits 7 to 1 of the second byte, handed to the host unchanged (R114); handed to the host. -/
  | siof (u : BitVec 7) (b2 : RegNum) (d2 : Disp)
  /-- TIO, opcode 9D00, S, R183; `u` is bits 7 to 1 of the second byte, handed to the host unchanged (R114); handed to the host. -/
  | tio (u : BitVec 7) (b2 : RegNum) (d2 : Disp)
  /-- HIO, opcode 9E00, S, R184; `u` is bits 7 to 1 of the second byte, handed to the host unchanged (R114); handed to the host. -/
  | hio (u : BitVec 7) (b2 : RegNum) (d2 : Disp)
  /-- HDV, opcode 9E01, S, R185; `u` is bits 7 to 1 of the second byte, handed to the host unchanged (R114); handed to the host. -/
  | hdv (u : BitVec 7) (b2 : RegNum) (d2 : Disp)
  /-- TCH, opcode 9F00, S, R186; `u` is bits 7 to 1 of the second byte, handed to the host unchanged (R114); handed to the host. -/
  | tch (u : BitVec 7) (b2 : RegNum) (d2 : Disp)
  /-- STNSM, opcode AC, SI, R173. -/
  | stnsm (i2 : Byte) (b1 : RegNum) (d1 : Disp)
  /-- STOSM, opcode AD, SI, R174. -/
  | stosm (i2 : Byte) (b1 : RegNum) (d1 : Disp)
  /-- STCK, opcode B205, S, R179. -/
  | stck (b2 : RegNum) (d2 : Disp)
  /-- SCKC, opcode B206, S, R197; handed to the host. -/
  | sckc (b2 : RegNum) (d2 : Disp)
  /-- STCKC, opcode B207, S, R198; handed to the host. -/
  | stckc (b2 : RegNum) (d2 : Disp)
  /-- PTLB, opcode B20D, S, R196; handed to the host. -/
  | ptlb (b2 : RegNum) (d2 : Disp)
  /-- SPX, opcode B210, S, R194; handed to the host. -/
  | spx (b2 : RegNum) (d2 : Disp)
  /-- STPX, opcode B211, S, R195; handed to the host. -/
  | stpx (b2 : RegNum) (d2 : Disp)
  /-- STAP, opcode B212, S, R193; handed to the host. -/
  | stap (b2 : RegNum) (d2 : Disp)
  /-- STCTL, opcode B6, RS, R191; handed to the host. -/
  | stctl (r1 r3 b2 : RegNum) (d2 : Disp)
  /-- LCTL, opcode B7, RS, R192; handed to the host. -/
  | lctl (r1 r3 b2 : RegNum) (d2 : Disp)
  /-- CS, opcode BA, RS, R330. -/
  | cs (r1 r3 b2 : RegNum) (d2 : Disp)
  /-- CDS, opcode BB, RS, R331. -/
  | cds (r1 r3 b2 : RegNum) (d2 : Disp)
  /-- CLM, opcode BD, RS, R297; `m3` is the byte mask. -/
  | clm (r1 m3 b2 : RegNum) (d2 : Disp)
  /-- STCM, opcode BE, RS, R302; `m3` is the byte mask. -/
  | stcm (r1 m3 b2 : RegNum) (d2 : Disp)
  /-- ICM, opcode BF, RS, R301; `m3` is the byte mask. -/
  | icm (r1 m3 b2 : RegNum) (d2 : Disp)
  /-- MVN, opcode D1, SS1, R305. -/
  | mvn (l : Byte) (b1 : RegNum) (d1 : Disp) (b2 : RegNum) (d2 : Disp)
  /-- MVC, opcode D2, SS1, R304. -/
  | mvc (l : Byte) (b1 : RegNum) (d1 : Disp) (b2 : RegNum) (d2 : Disp)
  /-- MVZ, opcode D3, SS1, R306. -/
  | mvz (l : Byte) (b1 : RegNum) (d1 : Disp) (b2 : RegNum) (d2 : Disp)
  /-- NC, opcode D4, SS1, R284. -/
  | nc (l : Byte) (b1 : RegNum) (d1 : Disp) (b2 : RegNum) (d2 : Disp)
  /-- CLC, opcode D5, SS1, R296. -/
  | clc (l : Byte) (b1 : RegNum) (d1 : Disp) (b2 : RegNum) (d2 : Disp)
  /-- OC, opcode D6, SS1, R288. -/
  | oc (l : Byte) (b1 : RegNum) (d1 : Disp) (b2 : RegNum) (d2 : Disp)
  /-- XC, opcode D7, SS1, R292. -/
  | xc (l : Byte) (b1 : RegNum) (d1 : Disp) (b2 : RegNum) (d2 : Disp)
  /-- TR, opcode DC, SS1, R307. -/
  | tr (l : Byte) (b1 : RegNum) (d1 : Disp) (b2 : RegNum) (d2 : Disp)
  /-- TRT, opcode DD, SS1, R308. -/
  | trt (l : Byte) (b1 : RegNum) (d1 : Disp) (b2 : RegNum) (d2 : Disp)
  /-- ED, opcode DE, SS1, R514. -/
  | ed (l : Byte) (b1 : RegNum) (d1 : Disp) (b2 : RegNum) (d2 : Disp)
  /-- EDMK, opcode DF, SS1, R515. -/
  | edmk (l : Byte) (b1 : RegNum) (d1 : Disp) (b2 : RegNum) (d2 : Disp)
  /-- SRP, opcode F0, SS2, R508; `i3` is the rounding digit. -/
  | srp (l1 i3 b1 : RegNum) (d1 : Disp) (b2 : RegNum) (d2 : Disp)
  /-- MVO, opcode F1, SS2, R509. -/
  | mvo (l1 l2 b1 : RegNum) (d1 : Disp) (b2 : RegNum) (d2 : Disp)
  /-- PACK, opcode F2, SS2, R510. -/
  | pack (l1 l2 b1 : RegNum) (d1 : Disp) (b2 : RegNum) (d2 : Disp)
  /-- UNPK, opcode F3, SS2, R511. -/
  | unpk (l1 l2 b1 : RegNum) (d1 : Disp) (b2 : RegNum) (d2 : Disp)
  /-- ZAP, opcode F8, SS2, R502. -/
  | zap (l1 l2 b1 : RegNum) (d1 : Disp) (b2 : RegNum) (d2 : Disp)
  /-- CP, opcode F9, SS2, R505. -/
  | cp (l1 l2 b1 : RegNum) (d1 : Disp) (b2 : RegNum) (d2 : Disp)
  /-- AP, opcode FA, SS2, R503. -/
  | ap (l1 l2 b1 : RegNum) (d1 : Disp) (b2 : RegNum) (d2 : Disp)
  /-- SP, opcode FB, SS2, R504. -/
  | sp (l1 l2 b1 : RegNum) (d1 : Disp) (b2 : RegNum) (d2 : Disp)
  /-- MP, opcode FC, SS2, R506. -/
  | mp (l1 l2 b1 : RegNum) (d1 : Disp) (b2 : RegNum) (d2 : Disp)
  /-- DP, opcode FD, SS2, R507. -/
  | dp (l1 l2 b1 : RegNum) (d1 : Disp) (b2 : RegNum) (d2 : Disp)
  deriving DecidableEq, Repr

/-- The kinds of hand-off to the host (spec/30_encoding.md R112). -/
inductive HandoffKind where
  /-- DIAG: the full instruction is returned. -/
  | diag
  /-- An I/O instruction: first byte 9C to 9F. -/
  | io
  /-- Another privileged opcode: first byte B6, B7, or B2 with a second byte other than 05. -/
  | priv
  /-- Every other encoding with no row. -/
  | unknown
  deriving DecidableEq, Repr

end Sys2Proof
end

