-- ==== Sys2Proof/Decode.lean ====
section
/-! DEFINITION. The decoder, total on any bytes, and after it the encoder (spec/30_encoding.md R100 to R112, R119).
Both are written from the spec's opcode map R111 and its formats R102 to R108. -/

namespace Sys2Proof

/-! ## Bit fields -/

/-- `hi(b) = b[7:4]` (spec/00_scope.md R11). -/
def hiNib (b : Byte) : BitVec 4 := b.extractLsb' 4 4

/-- `lo(b) = b[3:0]` (spec/00_scope.md R11). -/
def loNib (b : Byte) : BitVec 4 := b.extractLsb' 0 4

/-- The 12-bit displacement `lo(I[k]) ∥ I[k+1]` (R103). -/
def dispOf (b c : Byte) : Disp := loNib b ++ c

/-! ## Lengths and refusals -/

/-- The length in bytes of an instruction, from the two high bits of its first byte alone (R100). -/
def instrLength (b0 : Byte) : Nat :=
  if b0.toNat < 0x40 then 2 else if b0.toNat < 0xC0 then 4 else 6

/-- Why the decoder gives no instruction. Safe: each case is what R112 calls an encoding with no row, and the loop
hands it to the host; `truncated` is the decoder's own answer to fewer bytes than the instruction has, which
nothing but a short override of `executeOne` gives it (log 23). -/
inductive Reject where
  /-- Fewer bytes than the length of R100. -/
  | truncated
  /-- No row, and a first byte of none of the kinds below: `UnknownInstruction`. -/
  | unknownOpcode
  /-- First byte 9C to 9F with a second byte no row has: kind `Io`. -/
  | unassignedIo
  /-- First byte B2 with a second byte no row has: kind `Priv`. -/
  | unassignedPriv
  deriving DecidableEq, Repr

/-- The name under which an encoding with no row is refused, from its first byte (R112). -/
def rejectOf (b0 : Byte) : Reject :=
  if 0x9C ≤ b0.toNat ∧ b0.toNat ≤ 0x9F then .unassignedIo
  else if b0 = 0xB2 then .unassignedPriv
  else .unknownOpcode

/-! ## The opcode map (R111) -/

/-- First byte 00 to 3F: RR format (R102). In SVC the second byte is one immediate. -/
def rrRows : List (Nat × (RegNum → RegNum → Instr)) :=
  [ (0x04, .spm), (0x05, .balr), (0x06, .bctr), (0x07, .bcr), (0x08, .ssk), (0x09, .isk),
    (0x0A, fun hi lo => .svc (hi ++ lo)), (0x0D, .basr), (0x0E, .mvcl), (0x0F, .clcl), (0x10, .lpr), (0x11, .lnr),
    (0x12, .ltr), (0x13, .lcr), (0x14, .nr), (0x15, .clr), (0x16, .or), (0x17, .xr),
    (0x18, .lr), (0x19, .cr), (0x1A, .ar), (0x1B, .sr), (0x1C, .mr), (0x1D, .dr),
    (0x1E, .alr), (0x1F, .slr), (0x20, .lpdr), (0x21, .lndr), (0x22, .ltdr), (0x23, .lcdr),
    (0x24, .hdr), (0x28, .ldr), (0x29, .cdr), (0x2A, .adr), (0x2B, .sdr), (0x2C, .mdr),
    (0x2D, .ddr), (0x2E, .awr), (0x2F, .swr), (0x30, .lper), (0x31, .lner), (0x32, .lter),
    (0x33, .lcer), (0x34, .her), (0x35, .lrer), (0x38, .ler), (0x39, .cer), (0x3A, .aer),
    (0x3B, .ser), (0x3C, .mer), (0x3D, .der), (0x3E, .aur), (0x3F, .sur) ]

/-- RX format (R103). -/
def rxRows : List (Nat × (RegNum → RegNum → RegNum → Disp → Instr)) :=
  [ (0x40, .sth), (0x41, .la), (0x42, .stc), (0x43, .ic), (0x44, .ex), (0x45, .bal),
    (0x46, .bct), (0x47, .bc), (0x48, .lh), (0x49, .ch), (0x4A, .ah), (0x4B, .sh),
    (0x4C, .mh), (0x4D, .bas), (0x4E, .cvd), (0x4F, .cvb), (0x50, .st), (0x54, .n),
    (0x55, .cl), (0x56, .o), (0x57, .x), (0x58, .l), (0x59, .c), (0x5A, .a),
    (0x5B, .s), (0x5C, .m), (0x5D, .d), (0x5E, .al), (0x5F, .sl), (0x60, .std),
    (0x68, .ld), (0x69, .cd), (0x6A, .ad), (0x6B, .sd), (0x6C, .md), (0x6D, .dd),
    (0x6E, .aw), (0x6F, .sw), (0x70, .ste), (0x78, .le), (0x79, .ce), (0x7A, .ae),
    (0x7B, .se), (0x7C, .me), (0x7D, .de), (0x7E, .au), (0x7F, .su) ]

/-- RS format (R104). -/
def rsRows : List (Nat × (RegNum → RegNum → RegNum → Disp → Instr)) :=
  [ (0x83, .diag), (0x86, .bxh), (0x87, .bxle), (0x88, .srl), (0x89, .sll), (0x8A, .sra),
    (0x8B, .sla), (0x8C, .srdl), (0x8D, .sldl), (0x8E, .srda), (0x8F, .slda), (0x90, .stm),
    (0x98, .lm), (0xB6, .stctl), (0xB7, .lctl), (0xBA, .cs), (0xBB, .cds), (0xBD, .clm),
    (0xBE, .stcm), (0xBF, .icm) ]

/-- SI format (R105). -/
def siRows : List (Nat × (Byte → RegNum → Disp → Instr)) :=
  [ (0x80, .ssm), (0x82, .lpsw), (0x91, .tm), (0x92, .mvi), (0x93, .ts), (0x94, .ni),
    (0x95, .cli), (0x96, .oi), (0x97, .xi), (0xAC, .stnsm), (0xAD, .stosm) ]

/-- The I/O instructions, keyed by the first byte and bit 0 of the second (R119, mask FF01). -/
def ioRows : List ((Nat × Nat) × (BitVec 7 → RegNum → Disp → Instr)) :=
  [ ((0x9C, 0), .sio), ((0x9C, 1), .siof), ((0x9D, 0), .tio), ((0x9E, 0), .hio), ((0x9E, 1), .hdv), ((0x9F, 0), .tch) ]

/-- S format with first byte B2, keyed by the second byte (R106). -/
def b2Rows : List (Nat × (RegNum → Disp → Instr)) :=
  [ (0x05, .stck), (0x06, .sckc), (0x07, .stckc), (0x0D, .ptlb), (0x10, .spx), (0x11, .stpx),
    (0x12, .stap) ]

/-- SS format with one length (R107). -/
def ss1Rows : List (Nat × (Byte → RegNum → Disp → RegNum → Disp → Instr)) :=
  [ (0xD1, .mvn), (0xD2, .mvc), (0xD3, .mvz), (0xD4, .nc), (0xD5, .clc), (0xD6, .oc),
    (0xD7, .xc), (0xDC, .tr), (0xDD, .trt), (0xDE, .ed), (0xDF, .edmk) ]

/-- SS format with two lengths (R108). -/
def ss2Rows : List (Nat × (RegNum → RegNum → RegNum → Disp → RegNum → Disp → Instr)) :=
  [ (0xF0, .srp), (0xF1, .mvo), (0xF2, .pack), (0xF3, .unpk), (0xF8, .zap), (0xF9, .cp),
    (0xFA, .ap), (0xFB, .sp), (0xFC, .mp), (0xFD, .dp) ]

/-! ## The decoder (R110) -/

/-- The row of a 2-byte instruction. -/
def decode2 (b0 b1 : Byte) : Option Instr :=
  (rrRows.lookup b0.toNat).map fun mk => mk (hiNib b1) (loNib b1)

/-- The row of a 4-byte instruction. -/
def decode4 (b0 b1 b2 b3 : Byte) : Option Instr :=
  match rxRows.lookup b0.toNat with
  | some mk => some (mk (hiNib b1) (loNib b1) (hiNib b2) (dispOf b2 b3))
  | none =>
    match rsRows.lookup b0.toNat with
    | some mk => some (mk (hiNib b1) (loNib b1) (hiNib b2) (dispOf b2 b3))
    | none =>
      match siRows.lookup b0.toNat with
      | some mk => some (mk b1 (hiNib b2) (dispOf b2 b3))
      | none =>
        match ioRows.lookup (b0.toNat, b1.toNat % 2) with
        | some mk => some (mk (b1.extractLsb' 1 7) (hiNib b2) (dispOf b2 b3))
        | none =>
          if b0 = 0xB2 then (b2Rows.lookup b1.toNat).map fun mk => mk (hiNib b2) (dispOf b2 b3)
          else none

/-- The row of a 6-byte instruction. -/
def decode6 (b0 b1 b2 b3 b4 b5 : Byte) : Option Instr :=
  match ss1Rows.lookup b0.toNat with
  | some mk => some (mk b1 (hiNib b2) (dispOf b2 b3) (hiNib b4) (dispOf b4 b5))
  | none =>
    (ss2Rows.lookup b0.toNat).map fun mk =>
      mk (hiNib b1) (loNib b1) (hiNib b2) (dispOf b2 b3) (hiNib b4) (dispOf b4 b5)

/-- A row, or the refusal by the name of R112, with the bytes after the instruction. -/
def rowOr (b0 : Byte) (rest : List Byte) (row : Option Instr) : Except Reject (Instr × List Byte) :=
  match row with
  | some i => .ok (i, rest)
  | none => .error (rejectOf b0)

/-- The instruction at the head of a list of bytes and the bytes after it (R110): the length by R100, then the row of
the dispatch table. -/
def decode (bs : List Byte) : Except Reject (Instr × List Byte) :=
  match bs with
  | b0 :: b1 :: rest =>
    if b0.toNat < 0x40 then rowOr b0 rest (decode2 b0 b1)
    else
      match rest with
      | b2 :: b3 :: rest4 =>
        if b0.toNat < 0xC0 then rowOr b0 rest4 (decode4 b0 b1 b2 b3)
        else
          match rest4 with
          | b4 :: b5 :: rest6 => rowOr b0 rest6 (decode6 b0 b1 b2 b3 b4 b5)
          | _ => .error .truncated
      | _ => .error .truncated
  | _ => .error .truncated

/-- The instruction of an encoding, if it has a row. -/
def decodeInstr (bs : List Byte) : Option Instr :=
  match decode bs with
  | .ok (i, _) => some i
  | .error _ => none

/-! ## Words of the opcode table -/

/-- The `n` bytes of a number, most significant first: the word `W = I[0] ∥ I[1] ∥ …` of R102 to R108. -/
def bytesBE : Nat → Nat → List Byte
  | 0, _ => []
  | n + 1, w => BitVec.ofNat 8 (w / 256 ^ n) :: bytesBE n w

/-- The six bytes of the instruction word `w` of `nbits` bits, numbered as spec/opcode_table.json numbers them (R119;
log 15), followed by zero bytes. The fields of a row number the whole word, bit 0 the least significant bit of its last
byte; its match value numbers the first two bytes alone. A number below 2^16 is a match value: a longer word that small
would begin with two zero bytes, which have no row. -/
def tableBytes (nbits w : Nat) : List Byte :=
  ((if w < 2 ^ 16 then bytesBE 2 w else bytesBE (nbits / 8) w) ++ List.replicate 6 0).take 6

/-- The instruction the decoder reads from the table word `w` of `nbits` bits. -/
def decodeTableWord (nbits w : Nat) : Option Instr := decodeInstr (tableBytes nbits w)

/-! ## The encoder -/

/-- The two bytes of a base register number and a displacement (R103). -/
def baseDisp (b : RegNum) (d : Disp) : List Byte :=
  [b ++ d.extractLsb' 8 4, d.extractLsb' 0 8]

/-- The bytes of an instruction, lowest address first (R102 to R108, R111). -/
def encode : Instr → List Byte
  | .spm r1 r2 => [0x04, r1 ++ r2]
  | .balr r1 r2 => [0x05, r1 ++ r2]
  | .bctr r1 r2 => [0x06, r1 ++ r2]
  | .bcr m1 r2 => [0x07, m1 ++ r2]
  | .ssk r1 r2 => [0x08, r1 ++ r2]
  | .isk r1 r2 => [0x09, r1 ++ r2]
  | .svc i => [0x0A, i]
  | .basr r1 r2 => [0x0D, r1 ++ r2]
  | .mvcl r1 r2 => [0x0E, r1 ++ r2]
  | .clcl r1 r2 => [0x0F, r1 ++ r2]
  | .lpr r1 r2 => [0x10, r1 ++ r2]
  | .lnr r1 r2 => [0x11, r1 ++ r2]
  | .ltr r1 r2 => [0x12, r1 ++ r2]
  | .lcr r1 r2 => [0x13, r1 ++ r2]
  | .nr r1 r2 => [0x14, r1 ++ r2]
  | .clr r1 r2 => [0x15, r1 ++ r2]
  | .or r1 r2 => [0x16, r1 ++ r2]
  | .xr r1 r2 => [0x17, r1 ++ r2]
  | .lr r1 r2 => [0x18, r1 ++ r2]
  | .cr r1 r2 => [0x19, r1 ++ r2]
  | .ar r1 r2 => [0x1A, r1 ++ r2]
  | .sr r1 r2 => [0x1B, r1 ++ r2]
  | .mr r1 r2 => [0x1C, r1 ++ r2]
  | .dr r1 r2 => [0x1D, r1 ++ r2]
  | .alr r1 r2 => [0x1E, r1 ++ r2]
  | .slr r1 r2 => [0x1F, r1 ++ r2]
  | .lpdr r1 r2 => [0x20, r1 ++ r2]
  | .lndr r1 r2 => [0x21, r1 ++ r2]
  | .ltdr r1 r2 => [0x22, r1 ++ r2]
  | .lcdr r1 r2 => [0x23, r1 ++ r2]
  | .hdr r1 r2 => [0x24, r1 ++ r2]
  | .ldr r1 r2 => [0x28, r1 ++ r2]
  | .cdr r1 r2 => [0x29, r1 ++ r2]
  | .adr r1 r2 => [0x2A, r1 ++ r2]
  | .sdr r1 r2 => [0x2B, r1 ++ r2]
  | .mdr r1 r2 => [0x2C, r1 ++ r2]
  | .ddr r1 r2 => [0x2D, r1 ++ r2]
  | .awr r1 r2 => [0x2E, r1 ++ r2]
  | .swr r1 r2 => [0x2F, r1 ++ r2]
  | .lper r1 r2 => [0x30, r1 ++ r2]
  | .lner r1 r2 => [0x31, r1 ++ r2]
  | .lter r1 r2 => [0x32, r1 ++ r2]
  | .lcer r1 r2 => [0x33, r1 ++ r2]
  | .her r1 r2 => [0x34, r1 ++ r2]
  | .lrer r1 r2 => [0x35, r1 ++ r2]
  | .ler r1 r2 => [0x38, r1 ++ r2]
  | .cer r1 r2 => [0x39, r1 ++ r2]
  | .aer r1 r2 => [0x3A, r1 ++ r2]
  | .ser r1 r2 => [0x3B, r1 ++ r2]
  | .mer r1 r2 => [0x3C, r1 ++ r2]
  | .der r1 r2 => [0x3D, r1 ++ r2]
  | .aur r1 r2 => [0x3E, r1 ++ r2]
  | .sur r1 r2 => [0x3F, r1 ++ r2]
  | .sth r1 x2 b2 d2 => 0x40 :: (r1 ++ x2) :: baseDisp b2 d2
  | .la r1 x2 b2 d2 => 0x41 :: (r1 ++ x2) :: baseDisp b2 d2
  | .stc r1 x2 b2 d2 => 0x42 :: (r1 ++ x2) :: baseDisp b2 d2
  | .ic r1 x2 b2 d2 => 0x43 :: (r1 ++ x2) :: baseDisp b2 d2
  | .ex r1 x2 b2 d2 => 0x44 :: (r1 ++ x2) :: baseDisp b2 d2
  | .bal r1 x2 b2 d2 => 0x45 :: (r1 ++ x2) :: baseDisp b2 d2
  | .bct r1 x2 b2 d2 => 0x46 :: (r1 ++ x2) :: baseDisp b2 d2
  | .bc m1 x2 b2 d2 => 0x47 :: (m1 ++ x2) :: baseDisp b2 d2
  | .lh r1 x2 b2 d2 => 0x48 :: (r1 ++ x2) :: baseDisp b2 d2
  | .ch r1 x2 b2 d2 => 0x49 :: (r1 ++ x2) :: baseDisp b2 d2
  | .ah r1 x2 b2 d2 => 0x4A :: (r1 ++ x2) :: baseDisp b2 d2
  | .sh r1 x2 b2 d2 => 0x4B :: (r1 ++ x2) :: baseDisp b2 d2
  | .mh r1 x2 b2 d2 => 0x4C :: (r1 ++ x2) :: baseDisp b2 d2
  | .bas r1 x2 b2 d2 => 0x4D :: (r1 ++ x2) :: baseDisp b2 d2
  | .cvd r1 x2 b2 d2 => 0x4E :: (r1 ++ x2) :: baseDisp b2 d2
  | .cvb r1 x2 b2 d2 => 0x4F :: (r1 ++ x2) :: baseDisp b2 d2
  | .st r1 x2 b2 d2 => 0x50 :: (r1 ++ x2) :: baseDisp b2 d2
  | .n r1 x2 b2 d2 => 0x54 :: (r1 ++ x2) :: baseDisp b2 d2
  | .cl r1 x2 b2 d2 => 0x55 :: (r1 ++ x2) :: baseDisp b2 d2
  | .o r1 x2 b2 d2 => 0x56 :: (r1 ++ x2) :: baseDisp b2 d2
  | .x r1 x2 b2 d2 => 0x57 :: (r1 ++ x2) :: baseDisp b2 d2
  | .l r1 x2 b2 d2 => 0x58 :: (r1 ++ x2) :: baseDisp b2 d2
  | .c r1 x2 b2 d2 => 0x59 :: (r1 ++ x2) :: baseDisp b2 d2
  | .a r1 x2 b2 d2 => 0x5A :: (r1 ++ x2) :: baseDisp b2 d2
  | .s r1 x2 b2 d2 => 0x5B :: (r1 ++ x2) :: baseDisp b2 d2
  | .m r1 x2 b2 d2 => 0x5C :: (r1 ++ x2) :: baseDisp b2 d2
  | .d r1 x2 b2 d2 => 0x5D :: (r1 ++ x2) :: baseDisp b2 d2
  | .al r1 x2 b2 d2 => 0x5E :: (r1 ++ x2) :: baseDisp b2 d2
  | .sl r1 x2 b2 d2 => 0x5F :: (r1 ++ x2) :: baseDisp b2 d2
  | .std r1 x2 b2 d2 => 0x60 :: (r1 ++ x2) :: baseDisp b2 d2
  | .ld r1 x2 b2 d2 => 0x68 :: (r1 ++ x2) :: baseDisp b2 d2
  | .cd r1 x2 b2 d2 => 0x69 :: (r1 ++ x2) :: baseDisp b2 d2
  | .ad r1 x2 b2 d2 => 0x6A :: (r1 ++ x2) :: baseDisp b2 d2
  | .sd r1 x2 b2 d2 => 0x6B :: (r1 ++ x2) :: baseDisp b2 d2
  | .md r1 x2 b2 d2 => 0x6C :: (r1 ++ x2) :: baseDisp b2 d2
  | .dd r1 x2 b2 d2 => 0x6D :: (r1 ++ x2) :: baseDisp b2 d2
  | .aw r1 x2 b2 d2 => 0x6E :: (r1 ++ x2) :: baseDisp b2 d2
  | .sw r1 x2 b2 d2 => 0x6F :: (r1 ++ x2) :: baseDisp b2 d2
  | .ste r1 x2 b2 d2 => 0x70 :: (r1 ++ x2) :: baseDisp b2 d2
  | .le r1 x2 b2 d2 => 0x78 :: (r1 ++ x2) :: baseDisp b2 d2
  | .ce r1 x2 b2 d2 => 0x79 :: (r1 ++ x2) :: baseDisp b2 d2
  | .ae r1 x2 b2 d2 => 0x7A :: (r1 ++ x2) :: baseDisp b2 d2
  | .se r1 x2 b2 d2 => 0x7B :: (r1 ++ x2) :: baseDisp b2 d2
  | .me r1 x2 b2 d2 => 0x7C :: (r1 ++ x2) :: baseDisp b2 d2
  | .de r1 x2 b2 d2 => 0x7D :: (r1 ++ x2) :: baseDisp b2 d2
  | .au r1 x2 b2 d2 => 0x7E :: (r1 ++ x2) :: baseDisp b2 d2
  | .su r1 x2 b2 d2 => 0x7F :: (r1 ++ x2) :: baseDisp b2 d2
  | .ssm i2 b1 d1 => 0x80 :: i2 :: baseDisp b1 d1
  | .lpsw i2 b1 d1 => 0x82 :: i2 :: baseDisp b1 d1
  | .diag r1 r3 b2 d2 => 0x83 :: (r1 ++ r3) :: baseDisp b2 d2
  | .bxh r1 r3 b2 d2 => 0x86 :: (r1 ++ r3) :: baseDisp b2 d2
  | .bxle r1 r3 b2 d2 => 0x87 :: (r1 ++ r3) :: baseDisp b2 d2
  | .srl r1 r3 b2 d2 => 0x88 :: (r1 ++ r3) :: baseDisp b2 d2
  | .sll r1 r3 b2 d2 => 0x89 :: (r1 ++ r3) :: baseDisp b2 d2
  | .sra r1 r3 b2 d2 => 0x8A :: (r1 ++ r3) :: baseDisp b2 d2
  | .sla r1 r3 b2 d2 => 0x8B :: (r1 ++ r3) :: baseDisp b2 d2
  | .srdl r1 r3 b2 d2 => 0x8C :: (r1 ++ r3) :: baseDisp b2 d2
  | .sldl r1 r3 b2 d2 => 0x8D :: (r1 ++ r3) :: baseDisp b2 d2
  | .srda r1 r3 b2 d2 => 0x8E :: (r1 ++ r3) :: baseDisp b2 d2
  | .slda r1 r3 b2 d2 => 0x8F :: (r1 ++ r3) :: baseDisp b2 d2
  | .stm r1 r3 b2 d2 => 0x90 :: (r1 ++ r3) :: baseDisp b2 d2
  | .tm i2 b1 d1 => 0x91 :: i2 :: baseDisp b1 d1
  | .mvi i2 b1 d1 => 0x92 :: i2 :: baseDisp b1 d1
  | .ts i2 b1 d1 => 0x93 :: i2 :: baseDisp b1 d1
  | .ni i2 b1 d1 => 0x94 :: i2 :: baseDisp b1 d1
  | .cli i2 b1 d1 => 0x95 :: i2 :: baseDisp b1 d1
  | .oi i2 b1 d1 => 0x96 :: i2 :: baseDisp b1 d1
  | .xi i2 b1 d1 => 0x97 :: i2 :: baseDisp b1 d1
  | .lm r1 r3 b2 d2 => 0x98 :: (r1 ++ r3) :: baseDisp b2 d2
  | .sio u b2 d2 => 0x9C :: (u ++ 0#1) :: baseDisp b2 d2
  | .siof u b2 d2 => 0x9C :: (u ++ 1#1) :: baseDisp b2 d2
  | .tio u b2 d2 => 0x9D :: (u ++ 0#1) :: baseDisp b2 d2
  | .hio u b2 d2 => 0x9E :: (u ++ 0#1) :: baseDisp b2 d2
  | .hdv u b2 d2 => 0x9E :: (u ++ 1#1) :: baseDisp b2 d2
  | .tch u b2 d2 => 0x9F :: (u ++ 0#1) :: baseDisp b2 d2
  | .stnsm i2 b1 d1 => 0xAC :: i2 :: baseDisp b1 d1
  | .stosm i2 b1 d1 => 0xAD :: i2 :: baseDisp b1 d1
  | .stck b2 d2 => 0xB2 :: 0x05 :: baseDisp b2 d2
  | .sckc b2 d2 => 0xB2 :: 0x06 :: baseDisp b2 d2
  | .stckc b2 d2 => 0xB2 :: 0x07 :: baseDisp b2 d2
  | .ptlb b2 d2 => 0xB2 :: 0x0D :: baseDisp b2 d2
  | .spx b2 d2 => 0xB2 :: 0x10 :: baseDisp b2 d2
  | .stpx b2 d2 => 0xB2 :: 0x11 :: baseDisp b2 d2
  | .stap b2 d2 => 0xB2 :: 0x12 :: baseDisp b2 d2
  | .stctl r1 r3 b2 d2 => 0xB6 :: (r1 ++ r3) :: baseDisp b2 d2
  | .lctl r1 r3 b2 d2 => 0xB7 :: (r1 ++ r3) :: baseDisp b2 d2
  | .cs r1 r3 b2 d2 => 0xBA :: (r1 ++ r3) :: baseDisp b2 d2
  | .cds r1 r3 b2 d2 => 0xBB :: (r1 ++ r3) :: baseDisp b2 d2
  | .clm r1 m3 b2 d2 => 0xBD :: (r1 ++ m3) :: baseDisp b2 d2
  | .stcm r1 m3 b2 d2 => 0xBE :: (r1 ++ m3) :: baseDisp b2 d2
  | .icm r1 m3 b2 d2 => 0xBF :: (r1 ++ m3) :: baseDisp b2 d2
  | .mvn l b1 d1 b2 d2 => 0xD1 :: l :: (baseDisp b1 d1 ++ baseDisp b2 d2)
  | .mvc l b1 d1 b2 d2 => 0xD2 :: l :: (baseDisp b1 d1 ++ baseDisp b2 d2)
  | .mvz l b1 d1 b2 d2 => 0xD3 :: l :: (baseDisp b1 d1 ++ baseDisp b2 d2)
  | .nc l b1 d1 b2 d2 => 0xD4 :: l :: (baseDisp b1 d1 ++ baseDisp b2 d2)
  | .clc l b1 d1 b2 d2 => 0xD5 :: l :: (baseDisp b1 d1 ++ baseDisp b2 d2)
  | .oc l b1 d1 b2 d2 => 0xD6 :: l :: (baseDisp b1 d1 ++ baseDisp b2 d2)
  | .xc l b1 d1 b2 d2 => 0xD7 :: l :: (baseDisp b1 d1 ++ baseDisp b2 d2)
  | .tr l b1 d1 b2 d2 => 0xDC :: l :: (baseDisp b1 d1 ++ baseDisp b2 d2)
  | .trt l b1 d1 b2 d2 => 0xDD :: l :: (baseDisp b1 d1 ++ baseDisp b2 d2)
  | .ed l b1 d1 b2 d2 => 0xDE :: l :: (baseDisp b1 d1 ++ baseDisp b2 d2)
  | .edmk l b1 d1 b2 d2 => 0xDF :: l :: (baseDisp b1 d1 ++ baseDisp b2 d2)
  | .srp l1 i3 b1 d1 b2 d2 => 0xF0 :: (l1 ++ i3) :: (baseDisp b1 d1 ++ baseDisp b2 d2)
  | .mvo l1 l2 b1 d1 b2 d2 => 0xF1 :: (l1 ++ l2) :: (baseDisp b1 d1 ++ baseDisp b2 d2)
  | .pack l1 l2 b1 d1 b2 d2 => 0xF2 :: (l1 ++ l2) :: (baseDisp b1 d1 ++ baseDisp b2 d2)
  | .unpk l1 l2 b1 d1 b2 d2 => 0xF3 :: (l1 ++ l2) :: (baseDisp b1 d1 ++ baseDisp b2 d2)
  | .zap l1 l2 b1 d1 b2 d2 => 0xF8 :: (l1 ++ l2) :: (baseDisp b1 d1 ++ baseDisp b2 d2)
  | .cp l1 l2 b1 d1 b2 d2 => 0xF9 :: (l1 ++ l2) :: (baseDisp b1 d1 ++ baseDisp b2 d2)
  | .ap l1 l2 b1 d1 b2 d2 => 0xFA :: (l1 ++ l2) :: (baseDisp b1 d1 ++ baseDisp b2 d2)
  | .sp l1 l2 b1 d1 b2 d2 => 0xFB :: (l1 ++ l2) :: (baseDisp b1 d1 ++ baseDisp b2 d2)
  | .mp l1 l2 b1 d1 b2 d2 => 0xFC :: (l1 ++ l2) :: (baseDisp b1 d1 ++ baseDisp b2 d2)
  | .dp l1 l2 b1 d1 b2 d2 => 0xFD :: (l1 ++ l2) :: (baseDisp b1 d1 ++ baseDisp b2 d2)

end Sys2Proof
end

