-- ==== Sys2Proof/Config.lean ====
section
/-! DEFINITION. What the spec leaves open: its OPEN parameters (spec/00_scope.md R5,
spec/93_implementation_defined.md part 1) and its unspecified outcomes, as constants with no value, and the one
value the model chooses, the content of a byte of memory or of a storage key that nothing has written. -/

namespace Sys2Proof.Config

/-- The decimal operations that have an unspecified outcome on invalid codes (R471, R478). -/
inductive DecimalOp where
  | zeroAndAdd | add | subtract | multiply | divide | compare
  | shiftAndRound | convertToBinary | edit | editAndMark
  deriving DecidableEq, Repr

/-- What a byte of main memory and a storage key that a memory does not list read as. `initMem` of R46 and R602 is an
argument of `State.resetWith`, any contents; this is the content of `State.reset`, which has no argument. DESIGN CHOICE
(log 2), unsafe for a claim about `State.reset` alone. -/
def initialByte : Byte := 0

/-- `insnsBeforeInterrupt`, the dead time in instructions between two deliveries (R574, decision D9): OPEN, any
natural number, 0 included. A free value (log 5), safe. -/
opaque insnsBeforeInterrupt : Nat

/-- `SL_CC`, the condition code of SLR and SL as a function of the two operands (R221, decision D22): OPEN. A free
value (log 6), safe. -/
opaque slCc (a b : Word) : CC

/-- `SIG_ON_ZERO_FIRST_OPERAND` (R370, decision D16, conflict C1): OPEN. A free value (log 7), safe. -/
opaque sigOnZeroFirstOperand : Bool

/-- The host's time of day in microseconds at the `n`-th reading of the clock (R179): an input of the block, any
value. A free value (log 8), safe. -/
opaque hostMicros (n : Nat) : Nat

/-- `TOD_EPOCH_OFFSET`, seconds from 1900 to the host's epoch (R179): OPEN. A free value (log 8), safe. -/
opaque todEpochOffset : Nat

/-- Byte `i` of the result field of a decimal operation on invalid codes, as an uninterpreted function of the
operation, its operand bytes and its immediates (R478, decision D21). A free value (log 9), safe. -/
opaque invalidDecimalByte (op : DecimalOp) (first second : List Byte) (imm i : Nat) : Byte

/-- The condition code of a decimal operation on invalid codes (R478). A free value (log 9), safe. -/
opaque invalidDecimalCc (op : DecimalOp) (first second : List Byte) (imm : Nat) : CC

/-- The result register of a decimal operation on invalid codes (R478): `x[r1]` of CVB, `x[1]` of EDMK. A free
value (log 9), safe. -/
opaque invalidDecimalWord (op : DecimalOp) (first second : List Byte) (imm : Nat) : Word

/-- The channel status word a device handler stores at location 64 when it performs its `n`-th interruption
(R576, decision D29): outside the block. A free value (log 11). -/
opaque channelStatus (n : Nat) : DWord

/-- What the host's `n`-th read of the hand-off record finds when no hand-off ended the latest call: its 72 bits,
unspecified (R42, R613). A free value (log 3), safe. -/
opaque staleRecord (n : Nat) : BitVec 72

/-- Instruction byte `i` of a hand-off from an override of `executeOne` that has no byte `i`, by the bytes it has: R148
takes the following memory bytes for the record, and an override has none (R149). A free value (log 23), safe. -/
opaque absentByte (given : List Byte) (i : Nat) : Byte

end Sys2Proof.Config
end

