-- ==== Sys2Proof/Machine/State.lean ====
section
/-! DEFINITION. The state of the block as plain data (spec/10_state.md), the reset state (R46), and the reasons a step
can stop. -/

namespace Sys2Proof.Machine

/-- The program status word (R21). The problem-state flag `psw.p` is the constant 1 and is `PSW.p` below (log 16). -/
structure PSW where
  /-- Instruction address (R22). -/
  pc : Addr
  /-- Condition code (R23). -/
  cc : CC
  /-- Program mask: bit 3 fixed-point overflow, 2 decimal overflow, 1 exponent underflow, 0 significance (R24). -/
  pm : BitVec 4
  /-- System mask: bits 7 to 2 channels 0 to 5, bit 1 general I/O, bit 0 external (R25). -/
  sm : BitVec 8
  /-- Protection key, tracked and never enforced (R26). -/
  key : BitVec 4
  /-- Machine-check mask, held with no effect (R27). -/
  m : Bool
  /-- Wait flag (R28). -/
  w : Bool
  /-- Interruption code (R29). -/
  ic : BitVec 16
  /-- Instruction-length code, in halfwords (R29). -/
  ilc : BitVec 2
  deriving DecidableEq, Repr

/-- The problem-state flag: the constant 1, whatever is loaded (R28). -/
def PSW.p (_ : PSW) : Bool := true

/-- A FloatValue: zero flag, sign, fraction of at most 56 bits, unbiased exponent of 16
(spec/45_hfp_engine.md R362). -/
structure FloatValue where
  /-- `isZero`. -/
  z : Bool
  /-- `isPositive`. -/
  pos : Bool
  /-- The fraction, an integer of at most 14 hexadecimal digits. -/
  F : Nat
  /-- The exponent, a power of 16. -/
  e : Int
  deriving DecidableEq, Repr

/-- The positive true zero (R362, R368). -/
def FloatValue.zero : FloatValue := ⟨true, true, 0, -64⟩

/-- The four floating-point registers (R35). -/
structure FpRegs where
  f0 : FloatValue
  f2 : FloatValue
  f4 : FloatValue
  f6 : FloatValue
  deriving DecidableEq, Repr

/-- The names of the floating-point registers (R35). -/
inductive FReg where
  | f0 | f2 | f4 | f6
  deriving DecidableEq, Repr

/-- The program-interruption conditions (spec/60_exceptions.md R541). -/
inductive ProgramException where
  | operation | privilege | execute | addressing | specification
  | fixedPointOverflow | fixedPointDivide | decimalOverflow | decimalDivide
  | exponentOverflow | exponentUnderflow | significance | floatDivide
  deriving DecidableEq, Repr

/-- The two PSW-load failures (R560). -/
inductive PswLoadKind where
  | unsupportedMode | disabledWait
  deriving DecidableEq, Repr

/-- What an `execute` call returns (spec/40_decode_execute.md R141). -/
inductive ExecResult where
  /-- The budget is used up and nothing else ended the call. -/
  | budget
  /-- An encoding with no row, to be asked of the privileged layer. -/
  | unknownInstruction
  /-- The wait flag is 1 after the boundary check. -/
  | enabledWait
  /-- A hand-off, with the instruction bits of R148. -/
  | sentinel (kind : HandoffKind) (value : Word)
  /-- A PSW load failed. -/
  | pswLoadFault (kind : PswLoadKind)
  deriving DecidableEq, Repr

/-- The hand-off record (R42). -/
structure HandoffRecord where
  ra : RegNum
  rb : RegNum
  imm : Byte
  addr : Addr
  insn : Word
  deriving DecidableEq, Repr

/-- The identity of an interrupt source: the internal interval timer, or the device at a place of the list of
attached devices (spec/60_exceptions.md R570). -/
inductive SourceId where
  | timer
  | device (index : Nat)
  deriving DecidableEq, Repr

/-- An attached device handler as the block sees it (R570, R573): its channel number, its device address, and its two
pending flags. -/
structure Device where
  channel : Nat
  address : BitVec 16
  async : Bool
  completion : Bool
  deriving DecidableEq, Repr

/-- Memory and the key array: the listed (address, byte) pairs, addresses strictly rising, none of them equal to what
an unlisted address reads as, `Config.initialByte`. -/
abbrev Memory := List Host.Cell

/-- The state of the block (R20), with the inputs and counters the model adds (INVENTORY.md, State). -/
structure State where
  /-- The program status word (R21). -/
  psw : PSW
  /-- The sixteen general registers (R34). -/
  gpr : Vector Word 16
  /-- The floating-point registers (R35). -/
  fpr : FpRegs
  /-- Main memory, 2^24 bytes (R36). -/
  mem : Memory
  /-- The storage keys, 8192 bytes, by page number (R37). -/
  keys : Memory
  /-- The interrupt queue `Q`, first enqueued first (R38). -/
  queue : List SourceId
  /-- The dead-time counter (R39). -/
  sinceIrq : Nat
  /-- The interval timer's pending flag (R40). -/
  timerPending : Bool
  /-- The last value STCK produced (R41). -/
  lastClock : DWord
  /-- The hand-off record (R42). -/
  record : HandoffRecord
  /-- The target of an EX is being executed (R43). -/
  exTarget : Bool
  /-- The latched halt request (R43). -/
  halt : Bool
  /-- MODEL: what the latest `execute` call of one instruction returned (R141; log 4). -/
  result : ExecResult
  /-- MODEL: the attached devices, inputs of the block (R20, R570; log 10). -/
  devices : List Device
  /-- MODEL: how often the host clock has been read (log 8). -/
  clockReads : Nat
  /-- MODEL: how often a device handler has stored a status (log 11). -/
  statusDraws : Nat
  deriving DecidableEq, Repr

/-- The PSW right after reset (R46, R601): every field zero. -/
def PSW.reset : PSW := ⟨0, 0, 0, 0, 0, false, false, 0, 0⟩

/-- The machine right after reset (R46, R601), for any `initMem`, which the spec leaves open (R5, R602): the contents
of memory and of the keys are the arguments, in their canonical form. The hand-off record is DESIGN CHOICE (log 3), the
model's own fields DESIGN CHOICE (logs 4, 8, 10, 11). -/
def State.resetWith (initMem initKeys : Memory) : State where
  psw := PSW.reset
  gpr := Vector.replicate 16 0
  fpr := ⟨.zero, .zero, .zero, .zero⟩
  mem := initMem
  keys := initKeys
  queue := []
  sinceIrq := 0
  timerPending := false
  lastClock := 0
  record := ⟨0, 0, 0, 0, 0⟩
  exTarget := false
  halt := false
  result := .budget
  devices := []
  clockReads := 0
  statusDraws := 0

/-- The reset state of a machine that nothing was loaded into: the `initMem` with every byte `Config.initialByte`,
DESIGN CHOICE (log 2). -/
def State.reset : State := State.resetWith [] []

/-- The reasons the machine stops with a fault: there are none. Every event the spec describes (a program
interruption, a PSW-load failure, a wait, a hand-off, an encoding with no row) has an effect on the state and is a next
state; nothing raises a fault, which is safe: no claim can rest on a run that stops. -/
inductive Fault where
  deriving DecidableEq, Repr

/-- The reasons an instruction is refused. -/
inductive Refusal where
  /-- Raised by an arm of `exec` whose instruction has no meaning yet; no arm of this model raises it. Safe: a run
  stops where the machine goes on. -/
  | notModelled (mnemonic : String)
  deriving DecidableEq, Repr

/-- The outcome of a step of this machine. -/
abbrev Out := Host.Outcome State Fault Refusal

end Sys2Proof.Machine
end

