-- ==== Sys2Proof/Machine/Ops.lean ====
section
/-! DEFINITION. The named operations over memory, keys and registers; the PSW image, storing and loading a PSW; taking
an interruption and returning from one; the post-processing of an instruction's result; the hand-off to the host. -/

namespace Sys2Proof.Machine

/-! ## Memory as canonical data -/

/-- The byte at a key: the listed one, else the initial byte. -/
def Memory.read : Memory → Nat → Byte
  | [], _ => Config.initialByte
  | (k, v) :: m, a => if k = a then v else Memory.read m a

/-- `m` with a byte in front, unless it is what an unlisted key reads as. -/
def Memory.put (a : Nat) (v : Byte) (m : Memory) : Memory :=
  if v = Config.initialByte then m else (a, v) :: m

/-- Writes the byte at a key, keeping the keys rising and no listed byte equal to the initial byte. -/
def Memory.write : Memory → Nat → Byte → Memory
  | [], a, v => Memory.put a v []
  | (k, w) :: m, a, v =>
    if a < k then Memory.put a v ((k, w) :: m)
    else if a = k then Memory.put a v m
    else (k, w) :: Memory.write m a v

/-- The keys are strictly rising and all greater than `lo` (all of them when `lo` is none). -/
def Memory.rising : Option Nat → Memory → Bool
  | _, [] => true
  | none, (k, _) :: m => Memory.rising (some k) m
  | some lo, (k, _) :: m => decide (lo < k) && Memory.rising (some k) m

/-- The canonical form of a memory of `size` bytes: keys strictly rising and below `size`, no listed byte equal to
what an unlisted key reads as. -/
def Memory.wf (size : Nat) (m : Memory) : Bool :=
  Memory.rising none m && m.all fun c => decide (c.1 < size) && decide (c.2 ≠ Config.initialByte)

/-- The number of bytes of main memory (R36). -/
def memorySize : Nat := 2 ^ 24

/-- The number of storage keys (R37). -/
def keyCount : Nat := 8192

/-! ## Bytes and wider values in main memory (R8, R71, R72) -/

/-- `M[a]`. -/
def readByte (s : State) (a : Addr) : Byte := Memory.read s.mem a.toNat

/-- `M[a] <- v`. -/
def writeByte (s : State) (a : Addr) (v : Byte) : State := { s with mem := Memory.write s.mem a.toNat v }

/-- The address `k` bytes above `a`, modulo 2^24 (R71). -/
def offset (a : Addr) (k : Nat) : Addr := a + BitVec.ofNat 24 k

/-- `MemRead(a, n)` as a number: big-endian, each byte's address modulo 2^24 (R8). -/
def readBE (s : State) (a : Addr) : Nat → Nat
  | 0 => 0
  | n + 1 => readBE s a n * 256 + (readByte s (offset a n)).toNat

/-- `MemWrite(a, n, v)`: the low `n` bytes of the number, big-endian (R8). -/
def writeBE (s : State) (a : Addr) : Nat → Nat → State
  | 0, _ => s
  | n + 1, v => writeByte (writeBE s a n (v / 256)) (offset a n) (BitVec.ofNat 8 v)

/-- `MemRead(a, 2)`. -/
def read16 (s : State) (a : Addr) : Half := BitVec.ofNat 16 (readBE s a 2)

/-- `MemRead(a, 4)`. -/
def read32 (s : State) (a : Addr) : Word := BitVec.ofNat 32 (readBE s a 4)

/-- `MemRead(a, 8)`. -/
def read64 (s : State) (a : Addr) : DWord := BitVec.ofNat 64 (readBE s a 8)

/-- `MemWrite(a, 2, v)`. -/
def write16 (s : State) (a : Addr) (v : Half) : State := writeBE s a 2 v.toNat

/-- `MemWrite(a, 4, v)`. -/
def write32 (s : State) (a : Addr) (v : Word) : State := writeBE s a 4 v.toNat

/-- `MemWrite(a, 8, v)`. -/
def write64 (s : State) (a : Addr) (v : DWord) : State := writeBE s a 8 v.toNat

/-- The `n` bytes from `a` upward, lowest address first. -/
def readField (s : State) (a : Addr) : Nat → List Byte
  | 0 => []
  | n + 1 => readByte s a :: readField s (a + 1) n

/-- Stores bytes from `a` upward, lowest address first. -/
def writeField (s : State) (a : Addr) : List Byte → State
  | [] => s
  | b :: bs => writeField (writeByte s a b) (a + 1) bs

/-! ## Storage keys (R37) -/

/-- The storage-key byte of a page. -/
def readKey (s : State) (page : BitVec 13) : Byte := Memory.read s.keys page.toNat

/-- Sets the storage-key byte of a page. -/
def writeKey (s : State) (page : BitVec 13) (v : Byte) : State :=
  { s with keys := Memory.write s.keys page.toNat v }

/-! ## Registers -/

/-- `x[r]` (R34). -/
def getReg (s : State) (r : RegNum) : Word := s.gpr[r.toNat]'r.isLt

/-- `x[r] <- v` (R34). -/
def setReg (s : State) (r : RegNum) (v : Word) : State := { s with gpr := s.gpr.set r.toNat v r.isLt }

/-- The even-odd pair `x[r] ∥ x[r+1]` (R34). -/
def getPair (s : State) (r : RegNum) : DWord := getReg s r ++ getReg s (r + 1)

/-- `x[r] ∥ x[r+1] <- v` (R34). -/
def setPair (s : State) (r : RegNum) (v : DWord) : State :=
  setReg (setReg s r (v.extractLsb' 32 32)) (r + 1) (v.extractLsb' 0 32)

/-- The floating-point register of a number: 0, 2, 4, 6 and no other (R35, R369). -/
def fregOf (r : RegNum) : Option FReg :=
  if r = 0 then some .f0 else if r = 2 then some .f2 else if r = 4 then some .f4
  else if r = 6 then some .f6 else none

/-- `f[r]` (R35). -/
def getFpr (s : State) : FReg → FloatValue
  | .f0 => s.fpr.f0
  | .f2 => s.fpr.f2
  | .f4 => s.fpr.f4
  | .f6 => s.fpr.f6

/-- `f[r] <- v` (R35). -/
def setFpr (s : State) (r : FReg) (v : FloatValue) : State :=
  match r with
  | .f0 => { s with fpr := { s.fpr with f0 := v } }
  | .f2 => { s with fpr := { s.fpr with f2 := v } }
  | .f4 => { s with fpr := { s.fpr with f4 := v } }
  | .f6 => { s with fpr := { s.fpr with f6 := v } }

/-! ## PSW fields -/

/-- `psw.cc <- c`. -/
def setCc (s : State) (c : CC) : State := { s with psw := { s.psw with cc := c } }

/-- `pc <- a`. -/
def setPc (s : State) (a : Addr) : State := { s with psw := { s.psw with pc := a } }

/-- `psw.pm <- m`. -/
def setPm (s : State) (m : BitVec 4) : State := { s with psw := { s.psw with pm := m } }

/-- `psw.sm <- m`. -/
def setSm (s : State) (m : BitVec 8) : State := { s with psw := { s.psw with sm := m } }

/-- `psw.ic <- c`. -/
def setIc (s : State) (c : BitVec 16) : State := { s with psw := { s.psw with ic := c } }

/-- `psw.ilc <- n`. -/
def setIlc (s : State) (n : BitVec 2) : State := { s with psw := { s.psw with ilc := n } }

/-- The value the control interface returns. -/
def setResult (s : State) (r : ExecResult) : State := { s with result := r }

/-! ## The PSW image (R30, R31, R32) -/

/-- The 8-byte image of a PSW: EC bit 0, problem bit 1 (R30, R31). -/
def pswImage (p : PSW) : DWord :=
  p.sm ++ p.key ++ 0#1 ++ BitVec.ofBool p.m ++ BitVec.ofBool p.w ++ BitVec.ofBool p.p ++ p.ic ++ p.ilc ++ p.cc ++
    p.pm ++ p.pc

/-- `StorePSW(a)` (R31). -/
def storePsw (s : State) (a : Addr) : State := write64 s a (pswImage s.psw)

/-- The PSW that loading an image gives: the interruption code cleared, the ILC kept, the problem bit, the code and
the ILC of the image ignored (R32). -/
def pswOfImage (img : DWord) (ilc : BitVec 2) : PSW where
  sm := img.extractLsb' 56 8
  key := img.extractLsb' 52 4
  m := img.getLsbD 50
  w := img.getLsbD 49
  ic := 0
  ilc := ilc
  cc := img.extractLsb' 28 2
  pm := img.extractLsb' 24 4
  pc := img.extractLsb' 0 24

/-- Loads a PSW image (R32): an image with the EC bit is refused with the PSW unchanged; a PSW with wait 1 and mask 0
is loaded and then reported. The failure ends the `execute` call and is held in `result` (R560, log 4). -/
def loadPswImage (s : State) (img : DWord) : State :=
  if img.getLsbD 51 then setResult s (.pswLoadFault .unsupportedMode)
  else
    let t := { s with psw := pswOfImage img s.psw.ilc }
    if t.psw.w && t.psw.sm == 0 then setResult t (.pswLoadFault .disabledWait) else t

/-- `LoadPSW(a)` (R32): also the return from an interruption, when `a` is an old-PSW location (R552). -/
def loadPsw (s : State) (a : Addr) : State := loadPswImage s (read64 s a)

/-! ## Taking an interruption (R541, R550, R551) -/

/-- The interruption code of a program-interruption condition (R541). -/
def ProgramException.code : ProgramException → BitVec 16
  | .operation => 0x0001
  | .privilege => 0x0002
  | .execute => 0x0003
  | .addressing => 0x0005
  | .specification => 0x0006
  | .fixedPointOverflow => 0x0008
  | .fixedPointDivide => 0x0009
  | .decimalOverflow => 0x000A
  | .decimalDivide => 0x000B
  | .exponentOverflow => 0x000C
  | .exponentUnderflow => 0x000D
  | .significance => 0x000E
  | .floatDivide => 0x000F

/-- `Initiate(old, new, code)` (R551): the code into the PSW, the PSW to the old location, the new PSW loaded. -/
def initiate (s : State) (old new : Addr) (code : BitVec 16) : State := loadPsw (storePsw (setIc s code) old) new

/-- `ProgramInterrupt(e)` (R550): old PSW at 40, new PSW at 104. -/
def programInterrupt (s : State) (e : ProgramException) : State := initiate s 40 104 e.code

/-! ## The result of an instruction and its post-processing (R145, R146) -/

/-- What an instruction's rule yields: its register and memory results, an optional condition code, an optional
exception (R145). -/
structure Result where
  state : State
  cc : Option CC
  exc : Option ProgramException

/-- The rule is done: no condition code, no exception. -/
def done (s : State) : Result := ⟨s, none, none⟩

/-- The rule sets the condition code. -/
def doneCc (s : State) (c : CC) : Result := ⟨s, some c, none⟩

/-- The rule ends with `raise Program(e)` (R9). -/
def raise (s : State) (e : ProgramException) : Result := ⟨s, none, some e⟩

/-- The condition is one of the two that the loop masks, and its mask bit is 0 (R146, step 3). -/
def suppressed (pm : BitVec 4) : ProgramException → Bool
  | .fixedPointOverflow => !pm.getLsbD 3
  | .decimalOverflow => !pm.getLsbD 2
  | _ => false

/-- The state with the condition code of a result in place (R146, step 1). -/
def Result.withCc (r : Result) : State :=
  match r.cc with
  | some c => setCc r.state c
  | none => r.state

/-- The one post-processing rule (R146): the condition code first, then the interruption unless it is masked. -/
def postProcess (r : Result) : State :=
  match r.exc with
  | none => r.withCc
  | some e => if suppressed r.withCc.psw.pm e then r.withCc else programInterrupt r.withCc e

/-- The outcome of an instruction whose rule yields `r`. -/
def finish (r : Result) : Out := .next (postProcess r)

/-! ## Hand-off to the host (R112, R148) -/

/-- The kind of a hand-off, from the first two bytes (R112). -/
def handoffKind (b0 b1 : Byte) : HandoffKind :=
  if b0 = 0x83 then .diag
  else if 0x9C ≤ b0.toNat ∧ b0.toNat ≤ 0x9F then .io
  else if b0 = 0xB6 ∨ b0 = 0xB7 ∨ (b0 = 0xB2 ∧ b1 ≠ 0x05) then .priv
  else .unknown

/-- The base register's contribution to an address: register 0 contributes nothing (R10). -/
def addrPart (s : State) (r : RegNum) : Addr := if r = 0 then 0 else (getReg s r).extractLsb' 0 24

/-- `EA(b, d)` (R10). -/
def ea (s : State) (b : RegNum) (d : Disp) : Addr := addrPart s b + d.setWidth 24

/-- `EA(x, b, d)` (R10). -/
def eax (s : State) (x b : RegNum) (d : Disp) : Addr := addrPart s x + addrPart s b + d.setWidth 24

/-- The result an `execute` call returns for a hand-off (R148): the full instruction for DIAG, the first two bytes for
the I/O and the other privileged opcodes, no value for an unknown instruction. -/
def handoffResult (b0 b1 b2 b3 : Byte) : ExecResult :=
  match handoffKind b0 b1 with
  | .diag => .sentinel .diag (b0 ++ b1 ++ b2 ++ b3)
  | .io => .sentinel .io ((b0 ++ b1).setWidth 32)
  | .priv => .sentinel .priv ((b0 ++ b1).setWidth 32)
  | .unknown => .unknownInstruction

/-- The hand-off of an instruction whose first four bytes are given (R148): the record is written, the call returns;
no other state changes. -/
def handOff (s : State) (b0 b1 b2 b3 : Byte) : State :=
  { s with
    record := { ra := hiNib b1, rb := loNib b1, imm := b1, addr := ea s (hiNib b2) (dispOf b2 b3)
                insn := b0 ++ b1 ++ b2 ++ b3 }
    result := handoffResult b0 b1 b2 b3 }

/-- The hand-off of the bytes at the head of a list (R148). Fetched bytes and hand-off rows have four; an override of
`executeOne` may have fewer, and each byte it lacks is a free value: DESIGN CHOICE (log 23), since R148 takes the following
memory bytes and an override has none. -/
def handOffBytes (s : State) (bs : List Byte) : State :=
  let byte (i : Nat) : Byte := bs.getD i (Config.absentByte bs i)
  handOff s (byte 0) (byte 1) (byte 2) (byte 3)

end Sys2Proof.Machine
end

