-- ==== Sys2Proof/Machine/Flags.lean ====
section
/-! DEFINITION. The condition codes (spec/42_general_arith.md R200, spec/43_general_logical_storage.md R280, and the
instructions with a code of their own), each a function of exact integers or of the bytes compared. -/

namespace Sys2Proof.Machine

/-- 0 zero, 1 negative, 2 positive (R200 a). -/
def ccSign (t : Int) : CC := if t = 0 then 0 else if t < 0 then 1 else 2

/-- The exact result does not fit in 32 bits signed (R200 a). -/
def overflows (t : Int) : Bool := decide (t < -2 ^ 31) || decide (t > 2 ^ 31 - 1)

/-- Signed arithmetic: 3 on overflow, else the sign (R200 a). -/
def ccArith (t : Int) : CC := if overflows t then 3 else ccSign t

/-- Logical add: bit 1 the carry, bit 0 a nonzero result (R200 c). -/
def ccAddLogical (a b : Word) : CC :=
  let t := a.toNat + b.toNat
  if t < 2 ^ 32 then (if t = 0 then 0 else 1) else (if t = 2 ^ 32 then 2 else 3)

/-- Compare: 0 equal, 1 first low, 2 first high (R200 g, R280 b); unsigned operands are given as naturals. -/
def ccCompare (a b : Int) : CC := if a = b then 0 else if a < b then 1 else 2

/-- Boolean operations: 0 when every result bit is zero, else 1 (R280 a). -/
def ccBoolean (zero : Bool) : CC := if zero then 0 else 1

/-- Logical comparison of byte strings, left to right (R280 b, R296, R297). -/
def ccBytes : List Byte → List Byte → CC
  | u :: us, v :: vs => if u = v then ccBytes us vs else if u.toNat < v.toNat then 1 else 2
  | _, _ => 0

/-- TM (R298): 0 no selected bit is 1, 3 all are, else 1. -/
def ccTestMask (b mask : Byte) : CC :=
  if b &&& mask = 0 then 0 else if b &&& mask = mask then 3 else 1

/-- ICM (R301), from the inserted bytes in order: 0 all zero or none, 1 the first inserted bit is 1, else 2. -/
def ccInserted (bs : List Byte) : CC :=
  if bs.all (· == 0) then 0 else if (bs.headD 0).getLsbD 7 then 1 else 2

end Sys2Proof.Machine
end

