-- ==== Sys2Proof/Machine/Operands.lean ====
section
/-! DEFINITION. The operand forms (spec/30_encoding.md R102 to R109) and the checks on register designations
(spec/10_state.md R34, spec/45_hfp_engine.md R369), and the results several instructions share. -/

namespace Sys2Proof.Machine

/-! ## Storage operands -/

/-- The word operand of an RX instruction. -/
def wordAt (s : State) (x b : RegNum) (d : Disp) : Word := read32 s (eax s x b d)

/-- The halfword operand of an RX instruction, sign-extended (R203). -/
def halfAt (s : State) (x b : RegNum) (d : Disp) : Word := (read16 s (eax s x b d)).signExtend 32

/-- The doubleword operand of an RX instruction. -/
def dwordAt (s : State) (x b : RegNum) (d : Disp) : DWord := read64 s (eax s x b d)

/-- A shift amount: the low 6 bits of the RS second-operand address (R109 f). -/
def shiftAmount (s : State) (b : RegNum) (d : Disp) : Nat := ((ea s b d).extractLsb' 0 6).toNat

/-- The SRP shift count: the low 6 bits of the address in two's complement (R109 g). -/
def srpCount (s : State) (b : RegNum) (d : Disp) : Int := ((ea s b d).extractLsb' 0 6).toInt

/-- The byte count of a length code (R109 d). -/
def byteCount {w : Nat} (l : BitVec w) : Nat := l.toNat + 1

/-! ## Byte masks (R109 e) -/

/-- The byte positions of a register that a mask selects, left to right: position 3 is bits 31 to 24. -/
def maskPositions (m : RegNum) : List Nat := [3, 2, 1, 0].filter fun k => m.getLsbD k

/-- Byte `k` of a word, byte 3 the leftmost. -/
def byteOf (v : Word) (k : Nat) : Byte := v.extractLsb' (8 * k) 8

/-- The word with byte `k` replaced. -/
def withByte (v : Word) (k : Nat) (b : Byte) : Word :=
  (v &&& ~~~(0xFF#32 <<< (8 * k))) ||| (b.setWidth 32 <<< (8 * k))

/-- The word with the bytes at the positions replaced, in order. -/
def withBytes (v : Word) : List Nat → List Byte → Word
  | k :: ks, b :: bs => withBytes (withByte v k b) ks bs
  | _, _ => v

/-! ## Register designations -/

/-- An odd register where a pair is required raises a specification exception (R34). -/
def whenEven (r : RegNum) (s : State) (k : Result) : Result :=
  if r.getLsbD 0 then raise s .specification else k

/-- `FPR(r)` (R369, R401 a): a number other than 0, 2, 4, 6 raises a specification exception. -/
def withFpr (r : RegNum) (s : State) (k : FReg → Result) : Result :=
  match fregOf r with
  | some f => k f
  | none => raise s .specification

/-! ## Shared results of the general instructions -/

/-- Signed arithmetic with exact result `t` (R200 a, b): the wrapped value, the condition code, and the overflow
condition. -/
def signedResult (s : State) (r : RegNum) (t : Int) : Result :=
  ⟨setReg s r (BitVec.ofInt 32 t), some (ccArith t),
    if overflows t then some .fixedPointOverflow else none⟩

/-- Logical add (R200 c). -/
def addLogicalResult (s : State) (r : RegNum) (a b : Word) : Result :=
  doneCc (setReg s r (a + b)) (ccAddLogical a b)

/-- Logical subtract (R221): the condition code is the OPEN parameter `SL_CC`. -/
def subLogicalResult (s : State) (r : RegNum) (a b : Word) : Result :=
  doneCc (setReg s r (a - b)) (Config.slCc a b)

/-- A Boolean operation's result in a register (R280 a). -/
def booleanResult (s : State) (r : RegNum) (v : Word) : Result :=
  doneCc (setReg s r v) (ccBoolean (v == 0))

/-- A Boolean operation's result in a byte of memory (R280 a). -/
def booleanByteResult (s : State) (a : Addr) (v : Byte) : Result :=
  doneCc (writeByte s a v) (ccBoolean (v == 0))

/-- The product into a pair (R223). -/
def multiplyResult (s : State) (r : RegNum) (d : Word) : Result :=
  whenEven r s (done (setPair s r (BitVec.ofInt 64 ((getReg s (r + 1)).toInt * d.toInt))))

/-- The quotient and the remainder into a pair (R226): truncation toward zero, remainder with the dividend's sign; a
zero divisor or a quotient outside 32 bits raises with the registers unchanged. -/
def divideResult (s : State) (r : RegNum) (d : Word) : Result :=
  whenEven r s <|
    let n := (getPair s r).toInt
    if d = 0 then raise s .fixedPointDivide
    else if overflows (n.tdiv d.toInt) then raise s .fixedPointDivide
    else done (setReg (setReg s r (BitVec.ofInt 32 (n.tmod d.toInt))) (r + 1) (BitVec.ofInt 32 (n.tdiv d.toInt)))

/-! ## Arithmetic left shift (R231, R235) -/

/-- `n` single-bit left shifts of the numeric bits below the sign: the shifted value, and whether a bit shifted out
differed from the sign. -/
def shiftLeftArith {w : Nat} (sign : Bool) : Nat → BitVec w → Bool → BitVec w × Bool
  | 0, v, ovf => (v, ovf)
  | n + 1, v, ovf => shiftLeftArith sign n (v <<< 1) (ovf || (v.msb != sign))

/-- The condition code of an arithmetic left shift (R231). -/
def ccShiftLeft (ovf : Bool) (t : Int) : CC := if ovf then 3 else ccSign t

/-- The exception of an arithmetic left shift (R231). -/
def excShiftLeft (ovf : Bool) : Option ProgramException := if ovf then some .fixedPointOverflow else none

/-! ## Storage-to-storage loops (R280 c, R86) -/

/-- Left to right, `n` bytes: the byte at `a` becomes `f` of itself and the byte at `b`, each result stored before the
next byte is fetched. -/
def combineBytes (f : Byte → Byte → Byte) : Nat → Addr → Addr → State → State
  | 0, _, _, s => s
  | n + 1, a, b, s =>
    combineBytes f n (a + 1) (b + 1) (writeByte s a (f (readByte s a) (readByte s b)))

/-- A Boolean operation on `n` bytes of memory, with its condition code (R280 a). -/
def booleanField (f : Byte → Byte → Byte) (n : Nat) (a b : Addr) (s : State) : Result :=
  let t := combineBytes f n a b s
  doneCc t (ccBoolean ((readField t a n).all (· == 0)))

/-! ## Link information (R342) -/

/-- The link word of BAL and BALR: `ilc ∥ cc ∥ pm ∥ pc`. -/
def linkWord (s : State) : Word := s.psw.ilc ++ s.psw.cc ++ s.psw.pm ++ s.psw.pc

/-- The link word of BAS and BASR: `00 ∥ pc`. -/
def saveWord (s : State) : Word := 0#8 ++ s.psw.pc

/-- The address in a register: its low 24 bits. -/
def regAddr (s : State) (r : RegNum) : Addr := (getReg s r).extractLsb' 0 24

end Sys2Proof.Machine
end

