-- ==== Sys2Proof/Machine/Controller.lean ====
section
/-! DEFINITION. The interrupt controller and the interval timer (spec/60_exceptions.md R570 to R580). The attached
devices and their pending flags are inputs of the block, held in State (log 10). -/

namespace Sys2Proof.Machine

/-! ## Sources (R570, R573) -/

/-- The attached sources in order: the interval timer first, then the devices as attached (R570). -/
def sources (s : State) : List SourceId := .timer :: (List.range s.devices.length).map .device

/-- `s.hasPendingAsync()` (R570, R580). -/
def hasAsync (s : State) : SourceId → Bool
  | .timer => s.timerPending
  | .device n => (s.devices[n]?).any (·.async)

/-- `s.hasPendingCompletion()`: never for the timer (R570, R580). -/
def hasCompletion (s : State) : SourceId → Bool
  | .timer => false
  | .device n => (s.devices[n]?).any (·.completion)

/-- Either pending flag. -/
def isPending (s : State) (src : SourceId) : Bool := hasAsync s src || hasCompletion s src

/-- The bit of the system mask for a channel: bit `7 − n` for channels 0 to 5, bit 1 for the others (R573). -/
def channelBit (n : Nat) : Nat := if n < 6 then 7 - n else 1

/-- `s.interruptMaskBit` (R573, R580). -/
def maskBit (s : State) : SourceId → Nat
  | .timer => 0
  | .device n => match s.devices[n]? with
    | some d => channelBit d.channel
    | none => 1

/-! ## Initiation (R551, R576, R580) -/

/-- The timer's `initiateAsync` (R580). -/
def initiateTimer (s : State) : State := initiate { s with timerPending := false } 24 88 0x0080

/-- A device handler's `initiateAsync` or `initiateCompletion` (R576, log 11): the pending flag is cleared, a status is
stored at 64 (a free value), and the input/output PSW pair is swapped with the device address as the code. -/
def initiateDevice (s : State) (n : Nat) (async : Bool) : State :=
  match s.devices[n]? with
  | none => s
  | some d =>
    let d' := if async then { d with async := false } else { d with completion := false }
    let t := { s with devices := s.devices.set n d', statusDraws := s.statusDraws + 1 }
    initiate (write64 t 64 (Config.channelStatus s.statusDraws)) 56 120 d.address

/-- The delivery of one condition of a source, an asynchronous one preferred (R575). -/
def initiateSource (s : State) (src : SourceId) : State :=
  match src with
  | .timer => initiateTimer s
  | .device n => initiateDevice s n (hasAsync s src)

/-! ## The boundary check (R571, R572) -/

/-- `Enqueue(s)`: idempotent by identity (R571). -/
def enqueue (s : State) (src : SourceId) : State :=
  if src ∈ s.queue then s else { s with queue := s.queue ++ [src] }

/-- Step (a): every source with a pending asynchronous condition is enqueued, in the order of the list (R572). -/
def enqueueAsync (s : State) : State :=
  (sources s).foldl (fun t src => if hasAsync s src then enqueue t src else t) s

/-- The source is enabled and has a condition pending (R572, R573). -/
def deliverable (s : State) (src : SourceId) : Bool := s.psw.sm.getLsbD (maskBit s src) && isPending s src

/-- The dead time has passed, or the CPU waits (R572, R574, decision D35). -/
def deadTimeOver (s : State) : Bool := s.psw.w || decide (Config.insnsBeforeInterrupt ≤ s.sinceIrq)

/-- A delivery: the condition is initiated; unless the new PSW fails to load, which ends the call (log 12), the
dead-time counter starts again (R572, R574). -/
def deliver (s : State) (src : SourceId) : State :=
  let t := initiateSource s src
  if t.result = .budget then { t with sinceIrq := 0 } else t

/-- Step (b): at most one delivery, the first deliverable source of the queue, when the dead time is over (R572). -/
def deliverFirst (s : State) : State :=
  match s.queue.find? (deliverable s) with
  | none => s
  | some src => if deadTimeOver s then deliver s src else s

/-- Step (c): only sources with a condition pending stay in the queue (R572). -/
def dropIdle (s : State) : State := { s with queue := s.queue.filter (isPending s) }

/-- `BoundaryCheck()` (R572), called with `result = budget`. A PSW-load failure of the delivery ends it at once, with
the failure in `result` (log 12). -/
def boundaryCheck (s : State) : State :=
  let t := deliverFirst (enqueueAsync s)
  if t.result = .budget then dropIdle t else t

/-! ## The interval timer (R580) -/

/-- `TimerTick()` (R580): the word at 80 goes down by 256; crossing from non-negative to negative sets the pending
flag. -/
def timerTick (s : State) : State :=
  let old := read32 s 80
  let t := write32 s 80 (old - 256)
  if !old.msb && (old - 256).msb then { t with timerPending := true } else t

end Sys2Proof.Machine
end

