-- ==== Sys2Proof/Machine/Branch.lean ====
section
/-! DEFINITION. Branch instructions (spec/44_branch.md R340 to R350). `pc` already holds the address of the next
sequential instruction (spec/40_decode_execute.md R144); a target is never checked at branch time (R351). -/

namespace Sys2Proof.Machine

/-- `m1[3 − psw.cc] = 1` (R340). -/
def maskSelects (m : RegNum) (c : CC) : Bool := m.getLsbD (3 - c.toNat)

/-- BC (R340). -/
def execBc (m1 x2 b2 : RegNum) (d2 : Disp) (s : State) : Out :=
  finish (done (if maskSelects m1 s.psw.cc then setPc s (eax s x2 b2 d2) else s))

/-- BCR (R341). -/
def execBcr (m1 r2 : RegNum) (s : State) : Out :=
  finish (done (if r2 ≠ 0 ∧ maskSelects m1 s.psw.cc then setPc s (regAddr s r2) else s))

/-- BAL (R343): the target is computed before the link is written. -/
def execBal (r1 x2 b2 : RegNum) (d2 : Disp) (s : State) : Out :=
  finish (done (setPc (setReg s r1 (linkWord s)) (eax s x2 b2 d2)))

/-- BALR (R344). -/
def execBalr (r1 r2 : RegNum) (s : State) : Out :=
  let t := setReg s r1 (linkWord s)
  finish (done (if r2 ≠ 0 then setPc t (regAddr s r2) else t))

/-- BAS (R345). -/
def execBas (r1 x2 b2 : RegNum) (d2 : Disp) (s : State) : Out :=
  finish (done (setPc (setReg s r1 (saveWord s)) (eax s x2 b2 d2)))

/-- BASR (R346). -/
def execBasr (r1 r2 : RegNum) (s : State) : Out :=
  let t := setReg s r1 (saveWord s)
  finish (done (if r2 ≠ 0 then setPc t (regAddr s r2) else t))

/-- BCT (R347). -/
def execBct (r1 x2 b2 : RegNum) (d2 : Disp) (s : State) : Out :=
  let n := getReg s r1 - 1
  let t := setReg s r1 n
  finish (done (if n ≠ 0 then setPc t (eax s x2 b2 d2) else t))

/-- BCTR (R348). -/
def execBctr (r1 r2 : RegNum) (s : State) : Out :=
  let n := getReg s r1 - 1
  let t := setReg s r1 n
  finish (done (if r2 ≠ 0 ∧ n ≠ 0 then setPc t (regAddr s r2) else t))

/-- The comparand of BXH and BXLE: `x[r3 OR 1]`, read before `x[r1]` is written (R349). -/
def indexLimit (s : State) (r3 : RegNum) : Word := getReg s (r3 ||| 1)

/-- BXH (R349). -/
def execBxh (r1 r3 b2 : RegNum) (d2 : Disp) (s : State) : Out :=
  let sum := getReg s r1 + getReg s r3
  let t := setReg s r1 sum
  finish (done (if sum.toInt > (indexLimit s r3).toInt then setPc t (ea s b2 d2) else t))

/-- BXLE (R350). -/
def execBxle (r1 r3 b2 : RegNum) (d2 : Disp) (s : State) : Out :=
  let sum := getReg s r1 + getReg s r3
  let t := setReg s r1 sum
  finish (done (if sum.toInt ≤ (indexLimit s r3).toInt then setPc t (ea s b2 d2) else t))

end Sys2Proof.Machine
end

