-- ==== Sys2Proof/Machine/DecimalEngine.lean ====
section
/-! DEFINITION. The packed-decimal engine (spec/47_decimal_engine.md R470 to R479): decoding and encoding a field, the
result rule, the unspecified outcome of invalid codes, the right-to-left loops, and the Edit procedure
(spec/48_decimal_instructions.md R516). -/

namespace Sys2Proof.Machine

/-! ## Fields (R473 to R475) -/

/-- The nibbles of a byte string, high before low (R473). -/
def nibbles : List Byte → List Nat
  | [] => []
  | b :: bs => (hiNib b).toNat :: (loNib b).toNat :: nibbles bs

/-- A decoded field (R474): validity, the minus sign, the magnitude. -/
structure DecValue where
  valid : Bool
  neg : Bool
  mag : Nat
  deriving DecidableEq, Repr

/-- The value of a string of decimal digits, most significant first. -/
def digitsValue (ds : List Nat) : Nat := ds.foldl (fun n d => n * 10 + d) 0

/-- `Dec` of the bytes of a field (R474). -/
def decField (bs : List Byte) : DecValue :=
  let ns := nibbles bs
  let digits := ns.dropLast
  let sign := ns.getLastD 0
  ⟨digits.all (· ≤ 9) && decide (10 ≤ sign), sign == 11 || sign == 13, digitsValue digits⟩

/-- The signed value (R474). -/
def DecValue.val (v : DecValue) : Int := if v.neg then -(v.mag : Int) else v.mag

/-- The first `n` bytes of a field, two digits each, holding the low `2n` digits of `m` (R475). -/
def digitBytes : Nat → Nat → List Byte
  | 0, _ => []
  | n + 1, m => digitBytes n (m / 100) ++ [BitVec.ofNat 8 (m / 10 % 10 * 16 + m % 10)]

/-- The bytes `Enc(·, L, neg, mag)` writes (R475): the low `2L − 1` digits, sign 13 for minus, 12 for plus. -/
def encField (L : Nat) (neg : Bool) (mag : Nat) : List Byte :=
  digitBytes (L - 1) (mag / 10) ++ [BitVec.ofNat 8 (mag % 10 * 16 + if neg then 13 else 12)]

/-- `Ovf(L, mag)` (R475). -/
def decOverflow (L mag : Nat) : Bool := decide (10 ^ (2 * L - 1) ≤ mag)

/-! ## The result rule (R476) -/

/-- Stores the exact result `r` in the `L` bytes at `a`, with its condition code and the overflow condition: a zero
result is plus unless digits were lost. -/
def decimalResult (s : State) (a : Addr) (L : Nat) (r : Int) : Result :=
  let ovf := decOverflow L r.natAbs
  let m := r.natAbs % 10 ^ (2 * L - 1)
  let neg := decide (r < 0) && !(decide (m = 0) && !ovf)
  ⟨writeField s a (encField L neg m),
    some (if ovf then 3 else if m = 0 then 0 else if neg then 1 else 2),
    if ovf then some .decimalOverflow else none⟩

/-! ## Invalid codes (R478) -/

/-- The unspecified outcome with a result field: its `L` bytes and the condition code are free values (log 9). -/
def invalidField (s : State) (op : Config.DecimalOp) (f1 f2 : List Byte) (imm : Nat) (a : Addr) (L : Nat) : Result :=
  doneCc (writeField s a ((List.range L).map (Config.invalidDecimalByte op f1 f2 imm)))
    (Config.invalidDecimalCc op f1 f2 imm)

/-- The unspecified outcome with a result register (log 9). -/
def invalidRegister (s : State) (op : Config.DecimalOp) (f1 f2 : List Byte) (imm : Nat) (r : RegNum) : Result :=
  doneCc (setReg s r (Config.invalidDecimalWord op f1 f2 imm)) (Config.invalidDecimalCc op f1 f2 imm)

/-- The unspecified outcome with nothing but a condition code (log 9). -/
def invalidCcOnly (s : State) (op : Config.DecimalOp) (f1 f2 : List Byte) (imm : Nat) : Result :=
  doneCc s (Config.invalidDecimalCc op f1 f2 imm)

/-- An operation on two fields, all operand bytes read first (R472, R501): the unspecified outcome when either is
invalid, else what `k` gives on the two decoded values. -/
def onFields (s : State) (op : Config.DecimalOp) (a1 : Addr) (L1 : Nat) (a2 : Addr) (L2 : Nat)
    (k : DecValue → DecValue → Result) : Result :=
  let f1 := readField s a1 L1
  let f2 := readField s a2 L2
  if (decField f1).valid && (decField f2).valid then k (decField f1) (decField f2)
  else invalidField s op f1 f2 0 a1 L1

/-! ## MVO, PACK, UNPK: right to left, each byte stored before the next is fetched (R86, R509 to R511) -/

/-- The byte at place `j - 1` of a field at `a`, or zero when no byte is left of it. -/
def byteBelow (s : State) (a : Addr) (j : Nat) : Byte := if j = 0 then 0 else readByte s (offset a (j - 1))

/-- MVO (R509): `i` bytes of the first operand and `j` of the second are left; `prev` is the pending low nibble. -/
def moveOffset (a1 a2 : Addr) : (i j : Nat) → BitVec 4 → State → State
  | 0, _, _, s => s
  | i + 1, j, prev, s =>
    let b := byteBelow s a2 j
    moveOffset a1 a2 i (j - 1) (hiNib b) (writeByte s (offset a1 i) (loNib b ++ prev))

/-- PACK left of the rightmost byte (R510). -/
def packBytes (a1 a2 : Addr) : (i j : Nat) → State → State
  | 0, _, s => s
  | i + 1, j, s =>
    packBytes a1 a2 i (j - 2)
      (writeByte s (offset a1 i) (loNib (byteBelow s a2 (j - 1)) ++ loNib (byteBelow s a2 j)))

/-- UNPK left of the rightmost byte (R511): one source byte gives two zoned digits. -/
def unpackBytes (a1 a2 : Addr) : (i j : Nat) → State → State
  | 0, _, s => s
  | 1, j, s => writeByte s a1 (0xF#4 ++ loNib (byteBelow s a2 j))
  | i + 2, j, s =>
    let b := byteBelow s a2 j
    unpackBytes a1 a2 i (j - 1)
      (writeByte (writeByte s (offset a1 (i + 1)) (0xF#4 ++ loNib b)) (offset a1 i) (0xF#4 ++ hiNib b))

/-- The rightmost byte of PACK and UNPK: the rightmost source byte with its nibbles swapped (R510, R511). -/
def swapRightmost (a1 : Addr) (L1 : Nat) (a2 : Addr) (L2 : Nat) (s : State) : State :=
  let b := readByte s (offset a2 (L2 - 1))
  writeByte s (offset a1 (L1 - 1)) (loNib b ++ hiNib b)

/-! ## The Edit procedure (R516) -/

/-- What Edit carries from one pattern byte to the next: the memory, the source position (byte address and whether the
left nibble is next), the significance indicator, whether a nonzero digit was seen, the mark, and whether a source
digit was invalid (R478). -/
structure EditState where
  state : State
  sp : Addr
  left : Bool
  sig : Bool
  nz : Bool
  mark : Option Addr
  bad : Bool

/-- A digit selector or significance starter at `a` (R516): the next source digit, or the fill byte. -/
def editDigit (fill p : Byte) (a : Addr) (e : EditState) : EditState :=
  let b := readByte e.state e.sp
  let d := if e.left then hiNib b else loNib b
  let nonzero := decide (d ≠ 0)
  let out : Byte := if nonzero || e.sig then 0xF#4 ++ d else fill
  let sig := e.sig || nonzero || decide (p = 0x21)
  let right := (loNib b).toNat
  let signHere := e.left && decide (10 ≤ right)
  let plus := right == 10 || right == 12 || right == 14 || right == 15
  { state := writeByte e.state a out
    sp := if signHere || !e.left then e.sp + 1 else e.sp
    left := signHere || !e.left
    sig := sig && !(signHere && plus)
    nz := e.nz || nonzero
    mark := if nonzero && !e.sig then some a else e.mark
    bad := e.left && decide (9 < d.toNat) }

/-- One pattern byte at `a`, the first of the pattern when `first` (R516). Nothing is done after an invalid digit. -/
def editByte (fill : Byte) (first : Bool) (a : Addr) (e : EditState) : EditState :=
  if e.bad then e
  else
    let p := readByte e.state a
    if p = 0x20 ∨ p = 0x21 then editDigit fill p a e
    else if p = 0x22 then { e with state := writeByte e.state a fill, sig := false, nz := false }
    else if first || e.sig then e
    else { e with state := writeByte e.state a fill }

/-- The pattern bytes from `a` on, left to right (R516). -/
def editLoop (fill : Byte) : Nat → Bool → Addr → EditState → EditState
  | 0, _, _, e => e
  | n + 1, first, a, e => editLoop fill n false (a + 1) (editByte fill first a e)

/-- `Edit(a1, L, a2)` (R516). -/
def edit (s : State) (a1 : Addr) (L : Nat) (a2 : Addr) : EditState :=
  editLoop (readByte s a1) L true a1 ⟨s, a2, true, false, false, none, false⟩

/-- The condition code of Edit (R516). -/
def ccEdit (e : EditState) : CC := if !e.nz then 0 else if e.sig then 1 else 2

end Sys2Proof.Machine
end

