-- ==== Sys2Proof/Machine/Decimal.lean ====
section
/-! DEFINITION. Packed-decimal instructions (spec/48_decimal_instructions.md R500 to R516). Lengths are codes, one less
than the byte count (R501). -/

namespace Sys2Proof.Machine

/-- ZAP (R502): the first operand is not decoded. -/
def execZap (l1 l2 b1 : RegNum) (d1 : Disp) (b2 : RegNum) (d2 : Disp) (s : State) : Out :=
  let a1 := ea s b1 d1
  let f1 := readField s a1 (byteCount l1)
  let f2 := readField s (ea s b2 d2) (byteCount l2)
  finish <|
    if (decField f2).valid then decimalResult s a1 (byteCount l1) (decField f2).val
    else invalidField s .zeroAndAdd f1 f2 0 a1 (byteCount l1)

/-- AP (R503). -/
def execAp (l1 l2 b1 : RegNum) (d1 : Disp) (b2 : RegNum) (d2 : Disp) (s : State) : Out :=
  finish <| onFields s .add (ea s b1 d1) (byteCount l1) (ea s b2 d2) (byteCount l2) fun u v =>
    decimalResult s (ea s b1 d1) (byteCount l1) (u.val + v.val)

/-- SP (R504). -/
def execSp (l1 l2 b1 : RegNum) (d1 : Disp) (b2 : RegNum) (d2 : Disp) (s : State) : Out :=
  finish <| onFields s .subtract (ea s b1 d1) (byteCount l1) (ea s b2 d2) (byteCount l2) fun u v =>
    decimalResult s (ea s b1 d1) (byteCount l1) (u.val - v.val)

/-- CP (R505): nothing is stored, on invalid codes either. -/
def execCp (l1 l2 b1 : RegNum) (d1 : Disp) (b2 : RegNum) (d2 : Disp) (s : State) : Out :=
  let f1 := readField s (ea s b1 d1) (byteCount l1)
  let f2 := readField s (ea s b2 d2) (byteCount l2)
  finish <|
    if (decField f1).valid && (decField f2).valid then doneCc s (ccCompare (decField f1).val (decField f2).val)
    else invalidCcOnly s .compare f1 f2 0

/-- The length rule of MP and DP (R506, R507): the second operand at most 8 bytes and shorter than the first. -/
def whenShorter (L1 L2 : Nat) (s : State) (k : Result) : Result :=
  if 8 < L2 ∨ L1 ≤ L2 then raise s .specification else k

/-- MP (R506): a multiplicand without `L2` bytes of leading zeros has the unspecified outcome of R478. -/
def execMp (l1 l2 b1 : RegNum) (d1 : Disp) (b2 : RegNum) (d2 : Disp) (s : State) : Out :=
  let a1 := ea s b1 d1
  let L1 := byteCount l1
  let a2 := ea s b2 d2
  let L2 := byteCount l2
  finish <| whenShorter L1 L2 s <| onFields s .multiply a1 L1 a2 L2 fun u v =>
    if 10 ^ (2 * (L1 - L2) - 1) ≤ u.mag then
      invalidField s .multiply (readField s a1 L1) (readField s a2 L2) 0 a1 L1
    else done (writeField s a1 (encField L1 (u.neg != v.neg) (u.mag * v.mag)))

/-- DP (R507): quotient leftmost, then the remainder with the dividend's sign. -/
def execDp (l1 l2 b1 : RegNum) (d1 : Disp) (b2 : RegNum) (d2 : Disp) (s : State) : Out :=
  let a1 := ea s b1 d1
  let L1 := byteCount l1
  let L2 := byteCount l2
  finish <| whenShorter L1 L2 s <| onFields s .divide a1 L1 (ea s b2 d2) L2 fun u v =>
    if v.mag = 0 then raise s .decimalDivide
    else if 10 ^ (2 * (L1 - L2) - 1) ≤ u.mag / v.mag then raise s .decimalDivide
    else
      done (writeField s a1
        (encField (L1 - L2) (u.neg != v.neg) (u.mag / v.mag) ++ encField L2 u.neg (u.mag % v.mag)))

/-- The exact value SRP stores (R508): a left shift by a count not below 0, else a right shift with the rounding digit
added to the last digit shifted out. -/
def srpValue (u : DecValue) (sh : Int) (digit : Nat) : Int :=
  if 0 ≤ sh then u.val * 10 ^ sh.toNat
  else
    let n := (-sh).toNat
    let mag := (u.mag + digit * 10 ^ (n - 1)) / 10 ^ n
    if u.neg then -(mag : Int) else mag

/-- SRP (R508): `i3` is the rounding digit. -/
def execSrp (l1 i3 b1 : RegNum) (d1 : Disp) (b2 : RegNum) (d2 : Disp) (s : State) : Out :=
  let a1 := ea s b1 d1
  let L1 := byteCount l1
  let f1 := readField s a1 L1
  let sh := srpCount s b2 d2
  finish <|
    if (decField f1).valid && decide (i3.toNat ≤ 9) then decimalResult s a1 L1 (srpValue (decField f1) sh i3.toNat)
    else invalidField s .shiftAndRound f1 [] (((ea s b2 d2).extractLsb' 0 6).toNat * 16 + i3.toNat) a1 L1

/-- MVO (R509). -/
def execMvo (l1 l2 b1 : RegNum) (d1 : Disp) (b2 : RegNum) (d2 : Disp) (s : State) : Out :=
  let a1 := ea s b1 d1
  finish <| done <|
    moveOffset a1 (ea s b2 d2) (byteCount l1) (byteCount l2) (loNib (readByte s (offset a1 l1.toNat))) s

/-- PACK (R510). -/
def execPack (l1 l2 b1 : RegNum) (d1 : Disp) (b2 : RegNum) (d2 : Disp) (s : State) : Out :=
  let a1 := ea s b1 d1
  let a2 := ea s b2 d2
  finish <| done <| packBytes a1 a2 l1.toNat l2.toNat (swapRightmost a1 (byteCount l1) a2 (byteCount l2) s)

/-- UNPK (R511). -/
def execUnpk (l1 l2 b1 : RegNum) (d1 : Disp) (b2 : RegNum) (d2 : Disp) (s : State) : Out :=
  let a1 := ea s b1 d1
  let a2 := ea s b2 d2
  finish <| done <| unpackBytes a1 a2 l1.toNat l2.toNat (swapRightmost a1 (byteCount l1) a2 (byteCount l2) s)

/-- CVB (R512): the register is written even when the exception is raised. -/
def execCvb (r1 x2 b2 : RegNum) (d2 : Disp) (s : State) : Out :=
  let f := readField s (eax s x2 b2 d2) 8
  finish <|
    if (decField f).valid then
      ⟨setReg s r1 (BitVec.ofInt 32 (decField f).val), none,
        if overflows (decField f).val then some .fixedPointDivide else none⟩
    else invalidRegister s .convertToBinary f [] 0 r1

/-- CVD (R513). -/
def execCvd (r1 x2 b2 : RegNum) (d2 : Disp) (s : State) : Out :=
  let v := (getReg s r1).toInt
  finish (done (writeField s (eax s x2 b2 d2) (encField 8 (decide (v < 0)) v.natAbs)))

/-- ED (R514). -/
def execEd (l : Byte) (b1 : RegNum) (d1 : Disp) (b2 : RegNum) (d2 : Disp) (s : State) : Out :=
  let a1 := ea s b1 d1
  let L := byteCount l
  let e := edit s a1 L (ea s b2 d2)
  finish <|
    if e.bad then invalidField s .edit (readField s a1 L) (readField s (ea s b2 d2) L) 0 a1 L
    else doneCc e.state (ccEdit e)

/-- EDMK (R515): the mark goes to the low 24 bits of `x[1]`; on an invalid digit `x[1]` is a free value too. -/
def execEdmk (l : Byte) (b1 : RegNum) (d1 : Disp) (b2 : RegNum) (d2 : Disp) (s : State) : Out :=
  let a1 := ea s b1 d1
  let L := byteCount l
  let e := edit s a1 L (ea s b2 d2)
  finish <|
    if e.bad then
      let f1 := readField s a1 L
      let f2 := readField s (ea s b2 d2) L
      invalidField (setReg s 1 (Config.invalidDecimalWord .editAndMark f1 f2 0)) .editAndMark f1 f2 0 a1 L
    else
      match e.mark with
      | some a => doneCc (setReg e.state 1 ((getReg e.state 1).extractLsb' 24 8 ++ a)) (ccEdit e)
      | none => doneCc e.state (ccEdit e)

end Sys2Proof.Machine
end

