-- ==== Sys2Proof/Machine/General.lean ====
section
/-! DEFINITION. Fixed-point load, store, arithmetic, compare and shift (spec/42_general_arith.md R200 to R238). Each
meaning runs after the loop has advanced `pc` and set the ILC (spec/40_decode_execute.md R144). -/

namespace Sys2Proof.Machine

/-! ## Load and store -/

/-- LR (R201). -/
def execLr (r1 r2 : RegNum) (s : State) : Out := finish (done (setReg s r1 (getReg s r2)))

/-- L (R202). -/
def execL (r1 x2 b2 : RegNum) (d2 : Disp) (s : State) : Out := finish (done (setReg s r1 (wordAt s x2 b2 d2)))

/-- LH (R203). -/
def execLh (r1 x2 b2 : RegNum) (d2 : Disp) (s : State) : Out := finish (done (setReg s r1 (halfAt s x2 b2 d2)))

/-- LA (R204): no storage access. -/
def execLa (r1 x2 b2 : RegNum) (d2 : Disp) (s : State) : Out :=
  finish (done (setReg s r1 ((eax s x2 b2 d2).setWidth 32)))

/-- LTR (R205). -/
def execLtr (r1 r2 : RegNum) (s : State) : Out :=
  finish (doneCc (setReg s r1 (getReg s r2)) (ccSign (getReg s r2).toInt))

/-- LCR (R206). -/
def execLcr (r1 r2 : RegNum) (s : State) : Out := finish (signedResult s r1 (0 - (getReg s r2).toInt))

/-- LPR (R207). -/
def execLpr (r1 r2 : RegNum) (s : State) : Out := finish (signedResult s r1 ((getReg s r2).toInt.natAbs : Int))

/-- LNR (R208). -/
def execLnr (r1 r2 : RegNum) (s : State) : Out :=
  finish (signedResult s r1 (0 - ((getReg s r2).toInt.natAbs : Int)))

/-- How many registers LM and STM move: from `r1` up to `r3`, wrapping from 15 to 0 (R209). -/
def registerCount (r1 r3 : RegNum) : Nat := (r3 - r1).toNat + 1

/-- Loads `n` registers from `r` on with the words at `a` on (R209). -/
def loadRegs : Nat → RegNum → Addr → State → State
  | 0, _, _, s => s
  | n + 1, r, a, s => loadRegs n (r + 1) (a + 4) (setReg s r (read32 s a))

/-- Stores `n` registers from `r` on at the words from `a` on (R212). -/
def storeRegs : Nat → RegNum → Addr → State → State
  | 0, _, _, s => s
  | n + 1, r, a, s => storeRegs n (r + 1) (a + 4) (write32 s a (getReg s r))

/-- LM (R209): the address is formed before any register is loaded. -/
def execLm (r1 r3 b2 : RegNum) (d2 : Disp) (s : State) : Out :=
  finish (done (loadRegs (registerCount r1 r3) r1 (ea s b2 d2) s))

/-- ST (R210). -/
def execSt (r1 x2 b2 : RegNum) (d2 : Disp) (s : State) : Out :=
  finish (done (write32 s (eax s x2 b2 d2) (getReg s r1)))

/-- STH (R211). -/
def execSth (r1 x2 b2 : RegNum) (d2 : Disp) (s : State) : Out :=
  finish (done (write16 s (eax s x2 b2 d2) ((getReg s r1).extractLsb' 0 16)))

/-- STM (R212). -/
def execStm (r1 r3 b2 : RegNum) (d2 : Disp) (s : State) : Out :=
  finish (done (storeRegs (registerCount r1 r3) r1 (ea s b2 d2) s))

/-! ## Signed add and subtract -/

/-- AR (R213). -/
def execAr (r1 r2 : RegNum) (s : State) : Out :=
  finish (signedResult s r1 ((getReg s r1).toInt + (getReg s r2).toInt))

/-- A (R214). -/
def execA (r1 x2 b2 : RegNum) (d2 : Disp) (s : State) : Out :=
  finish (signedResult s r1 ((getReg s r1).toInt + (wordAt s x2 b2 d2).toInt))

/-- AH (R215). -/
def execAh (r1 x2 b2 : RegNum) (d2 : Disp) (s : State) : Out :=
  finish (signedResult s r1 ((getReg s r1).toInt + (halfAt s x2 b2 d2).toInt))

/-- SR (R216). -/
def execSr (r1 r2 : RegNum) (s : State) : Out :=
  finish (signedResult s r1 ((getReg s r1).toInt - (getReg s r2).toInt))

/-- S (R217). -/
def execS (r1 x2 b2 : RegNum) (d2 : Disp) (s : State) : Out :=
  finish (signedResult s r1 ((getReg s r1).toInt - (wordAt s x2 b2 d2).toInt))

/-- SH (R218). -/
def execSh (r1 x2 b2 : RegNum) (d2 : Disp) (s : State) : Out :=
  finish (signedResult s r1 ((getReg s r1).toInt - (halfAt s x2 b2 d2).toInt))

/-! ## Logical add and subtract -/

/-- ALR (R219). -/
def execAlr (r1 r2 : RegNum) (s : State) : Out := finish (addLogicalResult s r1 (getReg s r1) (getReg s r2))

/-- AL (R220). -/
def execAl (r1 x2 b2 : RegNum) (d2 : Disp) (s : State) : Out :=
  finish (addLogicalResult s r1 (getReg s r1) (wordAt s x2 b2 d2))

/-- SLR (R221). -/
def execSlr (r1 r2 : RegNum) (s : State) : Out := finish (subLogicalResult s r1 (getReg s r1) (getReg s r2))

/-- SL (R222). -/
def execSl (r1 x2 b2 : RegNum) (d2 : Disp) (s : State) : Out :=
  finish (subLogicalResult s r1 (getReg s r1) (wordAt s x2 b2 d2))

/-! ## Multiply and divide -/

/-- MR (R223). -/
def execMr (r1 r2 : RegNum) (s : State) : Out := finish (multiplyResult s r1 (getReg s r2))

/-- M (R224). -/
def execM (r1 x2 b2 : RegNum) (d2 : Disp) (s : State) : Out := finish (multiplyResult s r1 (wordAt s x2 b2 d2))

/-- MH (R225): the low 32 bits, overflow not detected. -/
def execMh (r1 x2 b2 : RegNum) (d2 : Disp) (s : State) : Out :=
  finish (done (setReg s r1 (BitVec.ofInt 32 ((getReg s r1).toInt * (halfAt s x2 b2 d2).toInt))))

/-- DR (R226). -/
def execDr (r1 r2 : RegNum) (s : State) : Out := finish (divideResult s r1 (getReg s r2))

/-- D (R227). -/
def execD (r1 x2 b2 : RegNum) (d2 : Disp) (s : State) : Out := finish (divideResult s r1 (wordAt s x2 b2 d2))

/-! ## Signed compare -/

/-- CR (R228). -/
def execCr (r1 r2 : RegNum) (s : State) : Out :=
  finish (doneCc s (ccCompare (getReg s r1).toInt (getReg s r2).toInt))

/-- C (R229). -/
def execC (r1 x2 b2 : RegNum) (d2 : Disp) (s : State) : Out :=
  finish (doneCc s (ccCompare (getReg s r1).toInt (wordAt s x2 b2 d2).toInt))

/-- CH (R230). -/
def execCh (r1 x2 b2 : RegNum) (d2 : Disp) (s : State) : Out :=
  finish (doneCc s (ccCompare (getReg s r1).toInt (halfAt s x2 b2 d2).toInt))

/-! ## Shifts: `r3` is ignored (R104) -/

/-- SLA (R231): the sign is kept, the 31 numeric bits shift left. -/
def execSla (r1 _r3 b2 : RegNum) (d2 : Disp) (s : State) : Out :=
  let v := getReg s r1
  let p := shiftLeftArith v.msb (shiftAmount s b2 d2) (v.extractLsb' 0 31) false
  let x : Word := BitVec.ofBool v.msb ++ p.1
  finish ⟨setReg s r1 x, some (ccShiftLeft p.2 x.toInt), excShiftLeft p.2⟩

/-- SRA (R232). -/
def execSra (r1 _r3 b2 : RegNum) (d2 : Disp) (s : State) : Out :=
  let x := (getReg s r1).sshiftRight (min (shiftAmount s b2 d2) 31)
  finish (doneCc (setReg s r1 x) (ccSign x.toInt))

/-- SLL (R233). -/
def execSll (r1 _r3 b2 : RegNum) (d2 : Disp) (s : State) : Out :=
  finish (done (setReg s r1 (getReg s r1 <<< shiftAmount s b2 d2)))

/-- SRL (R234). -/
def execSrl (r1 _r3 b2 : RegNum) (d2 : Disp) (s : State) : Out :=
  finish (done (setReg s r1 (getReg s r1 >>> shiftAmount s b2 d2)))

/-- SLDA (R235): as SLA on the 64 bits of a pair. -/
def execSlda (r1 _r3 b2 : RegNum) (d2 : Disp) (s : State) : Out :=
  finish <| whenEven r1 s <|
    let v := getPair s r1
    let p := shiftLeftArith v.msb (shiftAmount s b2 d2) (v.extractLsb' 0 63) false
    let x : DWord := BitVec.ofBool v.msb ++ p.1
    ⟨setPair s r1 x, some (ccShiftLeft p.2 x.toInt), excShiftLeft p.2⟩

/-- SRDA (R236). -/
def execSrda (r1 _r3 b2 : RegNum) (d2 : Disp) (s : State) : Out :=
  finish <| whenEven r1 s <|
    let x := (getPair s r1).sshiftRight (shiftAmount s b2 d2)
    doneCc (setPair s r1 x) (ccSign x.toInt)

/-- SLDL (R237). -/
def execSldl (r1 _r3 b2 : RegNum) (d2 : Disp) (s : State) : Out :=
  finish <| whenEven r1 s <| done (setPair s r1 (getPair s r1 <<< shiftAmount s b2 d2))

/-- SRDL (R238). -/
def execSrdl (r1 _r3 b2 : RegNum) (d2 : Disp) (s : State) : Out :=
  finish <| whenEven r1 s <| done (setPair s r1 (getPair s r1 >>> shiftAmount s b2 d2))

end Sys2Proof.Machine
end

