-- ==== Sys2Proof/Machine/Handoff.lean ====
section
/-! DEFINITION. The instructions handed to the host (spec/41_psw_system.md R180 to R198): the block writes the hand-off
record from the instruction's own bits, reports the sentinel, and changes nothing else (R148). What the host then does
is outside the block (spec/60_exceptions.md R585). -/

namespace Sys2Proof.Machine

/-- DIAG (R187). -/
def execDiag (r1 r3 b2 : RegNum) (d2 : Disp) (s : State) : Out :=
  .next (handOffBytes s (encode (.diag r1 r3 b2 d2)))

/-- SIO (R181). -/
def execSio (u : BitVec 7) (b2 : RegNum) (d2 : Disp) (s : State) : Out :=
  .next (handOffBytes s (encode (.sio u b2 d2)))

/-- SIOF (R182). -/
def execSiof (u : BitVec 7) (b2 : RegNum) (d2 : Disp) (s : State) : Out :=
  .next (handOffBytes s (encode (.siof u b2 d2)))

/-- TIO (R183). -/
def execTio (u : BitVec 7) (b2 : RegNum) (d2 : Disp) (s : State) : Out :=
  .next (handOffBytes s (encode (.tio u b2 d2)))

/-- HIO (R184). -/
def execHio (u : BitVec 7) (b2 : RegNum) (d2 : Disp) (s : State) : Out :=
  .next (handOffBytes s (encode (.hio u b2 d2)))

/-- HDV (R185). -/
def execHdv (u : BitVec 7) (b2 : RegNum) (d2 : Disp) (s : State) : Out :=
  .next (handOffBytes s (encode (.hdv u b2 d2)))

/-- TCH (R186). -/
def execTch (u : BitVec 7) (b2 : RegNum) (d2 : Disp) (s : State) : Out :=
  .next (handOffBytes s (encode (.tch u b2 d2)))

/-- SCKC (R197). -/
def execSckc (b2 : RegNum) (d2 : Disp) (s : State) : Out :=
  .next (handOffBytes s (encode (.sckc b2 d2)))

/-- STCKC (R198). -/
def execStckc (b2 : RegNum) (d2 : Disp) (s : State) : Out :=
  .next (handOffBytes s (encode (.stckc b2 d2)))

/-- PTLB (R196). -/
def execPtlb (b2 : RegNum) (d2 : Disp) (s : State) : Out :=
  .next (handOffBytes s (encode (.ptlb b2 d2)))

/-- SPX (R194). -/
def execSpx (b2 : RegNum) (d2 : Disp) (s : State) : Out :=
  .next (handOffBytes s (encode (.spx b2 d2)))

/-- STPX (R195). -/
def execStpx (b2 : RegNum) (d2 : Disp) (s : State) : Out :=
  .next (handOffBytes s (encode (.stpx b2 d2)))

/-- STAP (R193). -/
def execStap (b2 : RegNum) (d2 : Disp) (s : State) : Out :=
  .next (handOffBytes s (encode (.stap b2 d2)))

/-- STCTL (R191). -/
def execStctl (r1 r3 b2 : RegNum) (d2 : Disp) (s : State) : Out :=
  .next (handOffBytes s (encode (.stctl r1 r3 b2 d2)))

/-- LCTL (R192). -/
def execLctl (r1 r3 b2 : RegNum) (d2 : Disp) (s : State) : Out :=
  .next (handOffBytes s (encode (.lctl r1 r3 b2 d2)))

end Sys2Proof.Machine
end

