-- ==== Sys2Proof/Machine/HfpEngine.lean ====
section
/-! DEFINITION. The hexadecimal floating-point engine (spec/45_hfp_engine.md R360 to R379): FloatValues, memory images,
exact arithmetic, the one truncation `chop`, the result classification, and the primitives. -/

namespace Sys2Proof.Machine

/-! ## FloatValues (R362) -/

/-- The invariant of a register's FloatValue (R362, R379): a zero is canonical, a nonzero value has a nonzero leading
hexadecimal digit and an exponent from −77 to 63. -/
def FloatValue.wf (v : FloatValue) : Bool :=
  if v.z then decide (v.F = 0) && decide (v.e = -64)
  else decide (2 ^ 52 ≤ v.F) && decide (v.F < 2 ^ 56) && decide (-77 ≤ v.e) && decide (v.e ≤ 63)

/-- The number of hexadecimal digits of a natural number, 0 for 0. -/
def hexDigits (n : Nat) : Nat := if n = 0 then 0 else Nat.log2 n / 4 + 1

/-! ## Memory images (R363 to R366) -/

/-- `UnpackLong` (R363): normalizes exactly, raises nothing. -/
def unpackLong (w : DWord) : FloatValue :=
  let fr := (w.extractLsb' 0 56).toNat
  let k := 14 - hexDigits fr
  if fr = 0 then ⟨true, !w.getLsbD 63, 0, -64⟩
  else ⟨false, !w.getLsbD 63, fr * 16 ^ k, ((w.extractLsb' 56 7).toNat : Int) - 64 - k⟩

/-- `UnpackShort` (R364). -/
def unpackShort (w : Word) : FloatValue := unpackLong (w ++ 0#32)

/-- `PackLong` (R365): a value with an exponent below −64 is denormalized. -/
def packLong (v : FloatValue) : DWord :=
  let s : BitVec 1 := BitVec.ofBool (!v.pos)
  if v.z then s ++ 0#63
  else if v.e < -64 then s ++ 0#7 ++ BitVec.ofNat 56 (v.F / 16 ^ (-64 - v.e).toNat)
  else s ++ BitVec.ofInt 7 (v.e + 64) ++ BitVec.ofNat 56 v.F

/-- `PackShort` (R366): the high half, without rounding. -/
def packShort (v : FloatValue) : Word := (packLong v).extractLsb' 32 32

/-! ## Exact values -/

/-- An exact rational number `± num / den × 16^exp`, `den` positive: what the engine computes on before the one
truncation (R368, decision D14). -/
structure Exact where
  neg : Bool
  num : Nat
  den : Nat
  exp : Int
  deriving DecidableEq, Repr

/-- `val(v)` (R362). -/
def FloatValue.exact (v : FloatValue) : Exact :=
  if v.z then ⟨false, 0, 1, 0⟩ else ⟨!v.pos, v.F, 1, v.e - 14⟩

/-- The signed numerator of an exact value over the denominator `den × 16^(-lo)`, for an exponent not below `lo`. -/
def Exact.scaled (x : Exact) (lo : Int) : Int :=
  let m : Int := x.num * 16 ^ (x.exp - lo).toNat
  if x.neg then -m else m

/-- The exact sum. -/
def Exact.add (x y : Exact) : Exact :=
  let lo := min x.exp y.exp
  let t := x.scaled lo * y.den + y.scaled lo * x.den
  ⟨decide (t < 0), t.natAbs, x.den * y.den, lo⟩

/-- The exact negative. -/
def Exact.opp (x : Exact) : Exact := { x with neg := !x.neg }

/-- The exact product. -/
def Exact.mul (x y : Exact) : Exact := ⟨x.neg != y.neg, x.num * y.num, x.den * y.den, x.exp + y.exp⟩

/-- The exact quotient, for a nonzero divisor. -/
def Exact.div (x y : Exact) : Exact := ⟨x.neg != y.neg, x.num * y.den, x.den * y.num, x.exp - y.exp⟩

/-- Half of an exact value. -/
def Exact.half (x : Exact) : Exact := { x with den := x.den * 2 }

/-- The exponent `e` with `16^(e-1) ≤ num / den < 16^e`, for positive `num` and `den` (R368). -/
def leadExponent (num den : Nat) : Int :=
  let hn := hexDigits num
  let hd := hexDigits den
  if den * 16 ^ hn ≤ num * 16 ^ hd then (hn : Int) - hd + 1 else (hn : Int) - hd

/-- `floor(num / den × 16^k)`, `k` of either sign (R368). -/
def scaledFloor (num den : Nat) (k : Int) : Nat :=
  if 0 ≤ k then num * 16 ^ k.toNat / den else num / (den * 16 ^ (-k).toNat)

/-- `Chop(D, r)` (R368): the exact value truncated toward zero to `D` hexadecimal digits. -/
def chop (D : Nat) (x : Exact) : FloatValue :=
  if x.num = 0 then .zero
  else
    let lead := leadExponent x.num x.den
    ⟨false, !x.neg, scaledFloor x.num x.den (D - lead) * 16 ^ (14 - D), lead + x.exp⟩

/-- `T(D, v)` (R367): a short operand keeps the high 24 fraction bits. -/
def shortened (D : Nat) (v : FloatValue) : FloatValue :=
  if v.z then v else if D = 6 then { v with F := v.F / 2 ^ 32 * 2 ^ 32 } else v

/-! ## Result classification (R370) -/

/-- What a primitive returns (R360): a value for the first-operand register, a condition code, an exception. -/
structure FpResult where
  value : Option FloatValue
  cc : Option CC
  exc : Option ProgramException
  deriving DecidableEq, Repr

/-- `signcc(v)`, with zero as 0: the condition code of a FloatValue (R370, R377). -/
def ccFloat (v : FloatValue) : CC := if v.z then 0 else if v.pos then 2 else 1

/-- `Classify` (R370), with the program mask given. The two parameters that leave the condition code and the
significance condition to the primitive are `setsCC` and `sigCheck`. -/
def classify (pm : BitVec 4) (v : FloatValue) (setsCC uEnable sigCheck firstWasZero : Bool) : FpResult :=
  let cc (v : FloatValue) : Option CC := if setsCC then some (ccFloat v) else none
  if v.z then
    ⟨some v, cc v,
      if sigCheck && pm.getLsbD 0 && (!firstWasZero || Config.sigOnZeroFirstOperand) then some .significance
      else none⟩
  else if v.e > 63 then
    ⟨some { v with e := v.e - 128 }, cc v, some .exponentOverflow⟩
  else if v.e < -64 then
    if uEnable && pm.getLsbD 1 then ⟨some { v with e := v.e + 128 }, cc v, some .exponentUnderflow⟩
    else ⟨some .zero, cc .zero, none⟩
  else ⟨some v, cc v, none⟩

/-! ## Primitives -/

/-- `AddSub` (R371): the unnormalized variant differs only in never raising exponent underflow. -/
def addSub (pm : BitVec 4) (D : Nat) (a b : FloatValue) (subtract normalized : Bool) : FpResult :=
  let x := (shortened D a).exact
  let y := (shortened D b).exact
  classify pm (chop D (x.add (if subtract then y.opp else y))) true normalized true a.z

/-- `Multiply` (R372). -/
def multiplyFp (pm : BitVec 4) (Dop Dres : Nat) (a b : FloatValue) : FpResult :=
  classify pm (chop Dres ((shortened Dop a).exact.mul (shortened Dop b).exact)) false true false false

/-- `Divide` (R373): a zero divisor returns no result and raises. -/
def divideFp (pm : BitVec 4) (D : Nat) (a b : FloatValue) : FpResult :=
  if b.z then ⟨none, none, some .floatDivide⟩
  else classify pm (chop D ((shortened D a).exact.div (shortened D b).exact)) false true false false

/-- `Compare` (R374): the exact values, as a condition code. -/
def compareFp (D : Nat) (a b : FloatValue) : CC :=
  let d := (shortened D a).exact.add (shortened D b).exact.opp
  if d.num = 0 then 0 else if d.neg then 1 else 2

/-- `Halve` (R375). -/
def halve (pm : BitVec 4) (D : Nat) (b : FloatValue) : FpResult :=
  classify pm (chop D (shortened D b).exact.half) false true false false

/-- `RoundToShort` (R376): half-up on the magnitude at the 24th fraction bit. -/
def roundToShort (b : FloatValue) : FpResult :=
  if b.z then ⟨some b, none, none⟩
  else
    let F := b.F + 2 ^ 31
    let carry := decide (2 ^ 56 ≤ F)
    let F := if carry then F / 16 else F
    let e := if carry then b.e + 1 else b.e
    let v : FloatValue := ⟨false, b.pos, F / 2 ^ 32 * 2 ^ 32, e⟩
    if e > 63 then ⟨some { v with e := e - 128 }, none, some .exponentOverflow⟩ else ⟨some v, none, none⟩

/-- `LoadAndTest`, `LoadComplement`, `LoadPositive`, `LoadNegative` (R377): the operand with a new sign, also when it is
zero, and its condition code. -/
def loadSigned (D : Nat) (b : FloatValue) (sign : Bool → Bool) : FpResult :=
  let v := { shortened D b with pos := sign b.pos }
  ⟨some v, some (ccFloat v), none⟩

/-! ## Applying a primitive's result (R401 b) -/

/-- `apply(v, c, x)` (R401 b): the register, the condition code, the exception. -/
def applyFp (s : State) (r : FReg) (p : FpResult) : Result :=
  ⟨match p.value with
    | some v => setFpr s r v
    | none => s, p.cc, p.exc⟩

/-- A floating-point RR instruction (R401 a): both designations checked, then the primitive on the two registers. -/
def fpRR (r1 r2 : RegNum) (s : State) (op : FloatValue → FloatValue → FpResult) : Out :=
  finish <| withFpr r1 s fun x => withFpr r2 s fun y => applyFp s x (op (getFpr s x) (getFpr s y))

/-- A long floating-point RX instruction (R401 a, c): the second operand is a doubleword. -/
def fpRXLong (r1 x2 b2 : RegNum) (d2 : Disp) (s : State) (op : FloatValue → FloatValue → FpResult) : Out :=
  finish <| withFpr r1 s fun f1 => applyFp s f1 (op (getFpr s f1) (unpackLong (dwordAt s x2 b2 d2)))

/-- A short floating-point RX instruction (R401 a, c): the second operand is a word. -/
def fpRXShort (r1 x2 b2 : RegNum) (d2 : Disp) (s : State) (op : FloatValue → FloatValue → FpResult) : Out :=
  finish <| withFpr r1 s fun f1 => applyFp s f1 (op (getFpr s f1) (unpackShort (wordAt s x2 b2 d2)))

/-- A primitive that returns only a value. -/
def valueOnly (v : FloatValue) : FpResult := ⟨some v, none, none⟩

/-- A primitive that returns only a condition code. -/
def ccOnly (c : CC) : FpResult := ⟨none, some c, none⟩

end Sys2Proof.Machine
end

