-- ==== Sys2Proof/Machine/Hfp.lean ====
section
/-! DEFINITION. Hexadecimal floating-point instructions (spec/46_hfp_instructions.md R400 to R446): each names the
engine primitive and the precision (14 digits long, 6 short) that its rule gives it. -/

namespace Sys2Proof.Machine

/-! ## Long operands, register to register -/

/-- LPDR (R402). -/
def execLpdr (r1 r2 : RegNum) (s : State) : Out := fpRR r1 r2 s fun _ b => loadSigned 14 b (fun _ => true)

/-- LNDR (R403). -/
def execLndr (r1 r2 : RegNum) (s : State) : Out := fpRR r1 r2 s fun _ b => loadSigned 14 b (fun _ => false)

/-- LTDR (R404). -/
def execLtdr (r1 r2 : RegNum) (s : State) : Out := fpRR r1 r2 s fun _ b => loadSigned 14 b id

/-- LCDR (R405). -/
def execLcdr (r1 r2 : RegNum) (s : State) : Out := fpRR r1 r2 s fun _ b => loadSigned 14 b (! ·)

/-- HDR (R406). -/
def execHdr (r1 r2 : RegNum) (s : State) : Out := fpRR r1 r2 s fun _ b => halve s.psw.pm 14 b

/-- LDR (R407). -/
def execLdr (r1 r2 : RegNum) (s : State) : Out := fpRR r1 r2 s fun _ b => valueOnly (shortened 14 b)

/-- CDR (R408). -/
def execCdr (r1 r2 : RegNum) (s : State) : Out := fpRR r1 r2 s fun a b => ccOnly (compareFp 14 a b)

/-- ADR (R409). -/
def execAdr (r1 r2 : RegNum) (s : State) : Out := fpRR r1 r2 s fun a b => addSub s.psw.pm 14 a b false true

/-- SDR (R410). -/
def execSdr (r1 r2 : RegNum) (s : State) : Out := fpRR r1 r2 s fun a b => addSub s.psw.pm 14 a b true true

/-- MDR (R411). -/
def execMdr (r1 r2 : RegNum) (s : State) : Out := fpRR r1 r2 s fun a b => multiplyFp s.psw.pm 14 14 a b

/-- DDR (R412). -/
def execDdr (r1 r2 : RegNum) (s : State) : Out := fpRR r1 r2 s fun a b => divideFp s.psw.pm 14 a b

/-- AWR (R413). -/
def execAwr (r1 r2 : RegNum) (s : State) : Out := fpRR r1 r2 s fun a b => addSub s.psw.pm 14 a b false false

/-- SWR (R414). -/
def execSwr (r1 r2 : RegNum) (s : State) : Out := fpRR r1 r2 s fun a b => addSub s.psw.pm 14 a b true false

/-! ## Short operands, register to register -/

/-- LPER (R415). -/
def execLper (r1 r2 : RegNum) (s : State) : Out := fpRR r1 r2 s fun _ b => loadSigned 6 b (fun _ => true)

/-- LNER (R416). -/
def execLner (r1 r2 : RegNum) (s : State) : Out := fpRR r1 r2 s fun _ b => loadSigned 6 b (fun _ => false)

/-- LTER (R417). -/
def execLter (r1 r2 : RegNum) (s : State) : Out := fpRR r1 r2 s fun _ b => loadSigned 6 b id

/-- LCER (R418). -/
def execLcer (r1 r2 : RegNum) (s : State) : Out := fpRR r1 r2 s fun _ b => loadSigned 6 b (! ·)

/-- HER (R419). -/
def execHer (r1 r2 : RegNum) (s : State) : Out := fpRR r1 r2 s fun _ b => halve s.psw.pm 6 b

/-- LRER (R420). -/
def execLrer (r1 r2 : RegNum) (s : State) : Out := fpRR r1 r2 s fun _ b => roundToShort b

/-- LER (R421). -/
def execLer (r1 r2 : RegNum) (s : State) : Out := fpRR r1 r2 s fun _ b => valueOnly (shortened 6 b)

/-- CER (R422). -/
def execCer (r1 r2 : RegNum) (s : State) : Out := fpRR r1 r2 s fun a b => ccOnly (compareFp 6 a b)

/-- AER (R423). -/
def execAer (r1 r2 : RegNum) (s : State) : Out := fpRR r1 r2 s fun a b => addSub s.psw.pm 6 a b false true

/-- SER (R424). -/
def execSer (r1 r2 : RegNum) (s : State) : Out := fpRR r1 r2 s fun a b => addSub s.psw.pm 6 a b true true

/-- MER (R425): a long product. -/
def execMer (r1 r2 : RegNum) (s : State) : Out := fpRR r1 r2 s fun a b => multiplyFp s.psw.pm 6 14 a b

/-- DER (R426). -/
def execDer (r1 r2 : RegNum) (s : State) : Out := fpRR r1 r2 s fun a b => divideFp s.psw.pm 6 a b

/-- AUR (R427). -/
def execAur (r1 r2 : RegNum) (s : State) : Out := fpRR r1 r2 s fun a b => addSub s.psw.pm 6 a b false false

/-- SUR (R428). -/
def execSur (r1 r2 : RegNum) (s : State) : Out := fpRR r1 r2 s fun a b => addSub s.psw.pm 6 a b true false

/-! ## Long operands, storage -/

/-- STD (R429). -/
def execStd (r1 x2 b2 : RegNum) (d2 : Disp) (s : State) : Out :=
  finish <| withFpr r1 s fun f1 => done (write64 s (eax s x2 b2 d2) (packLong (getFpr s f1)))

/-- LD (R430). -/
def execLd (r1 x2 b2 : RegNum) (d2 : Disp) (s : State) : Out :=
  fpRXLong r1 x2 b2 d2 s fun _ b => valueOnly b

/-- CD (R431). -/
def execCd (r1 x2 b2 : RegNum) (d2 : Disp) (s : State) : Out :=
  fpRXLong r1 x2 b2 d2 s fun a b => ccOnly (compareFp 14 a b)

/-- AD (R432). -/
def execAd (r1 x2 b2 : RegNum) (d2 : Disp) (s : State) : Out :=
  fpRXLong r1 x2 b2 d2 s fun a b => addSub s.psw.pm 14 a b false true

/-- SD (R433). -/
def execSd (r1 x2 b2 : RegNum) (d2 : Disp) (s : State) : Out :=
  fpRXLong r1 x2 b2 d2 s fun a b => addSub s.psw.pm 14 a b true true

/-- MD (R434). -/
def execMd (r1 x2 b2 : RegNum) (d2 : Disp) (s : State) : Out :=
  fpRXLong r1 x2 b2 d2 s fun a b => multiplyFp s.psw.pm 14 14 a b

/-- DD (R435). -/
def execDd (r1 x2 b2 : RegNum) (d2 : Disp) (s : State) : Out :=
  fpRXLong r1 x2 b2 d2 s fun a b => divideFp s.psw.pm 14 a b

/-- AW (R436). -/
def execAw (r1 x2 b2 : RegNum) (d2 : Disp) (s : State) : Out :=
  fpRXLong r1 x2 b2 d2 s fun a b => addSub s.psw.pm 14 a b false false

/-- SW (R437). -/
def execSw (r1 x2 b2 : RegNum) (d2 : Disp) (s : State) : Out :=
  fpRXLong r1 x2 b2 d2 s fun a b => addSub s.psw.pm 14 a b true false

/-! ## Short operands, storage -/

/-- STE (R438). -/
def execSte (r1 x2 b2 : RegNum) (d2 : Disp) (s : State) : Out :=
  finish <| withFpr r1 s fun f1 => done (write32 s (eax s x2 b2 d2) (packShort (getFpr s f1)))

/-- LE (R439). -/
def execLe (r1 x2 b2 : RegNum) (d2 : Disp) (s : State) : Out :=
  fpRXShort r1 x2 b2 d2 s fun _ b => valueOnly b

/-- CE (R440). -/
def execCe (r1 x2 b2 : RegNum) (d2 : Disp) (s : State) : Out :=
  fpRXShort r1 x2 b2 d2 s fun a b => ccOnly (compareFp 6 a b)

/-- AE (R441). -/
def execAe (r1 x2 b2 : RegNum) (d2 : Disp) (s : State) : Out :=
  fpRXShort r1 x2 b2 d2 s fun a b => addSub s.psw.pm 6 a b false true

/-- SE (R442). -/
def execSe (r1 x2 b2 : RegNum) (d2 : Disp) (s : State) : Out :=
  fpRXShort r1 x2 b2 d2 s fun a b => addSub s.psw.pm 6 a b true true

/-- ME (R443): a long product. -/
def execMe (r1 x2 b2 : RegNum) (d2 : Disp) (s : State) : Out :=
  fpRXShort r1 x2 b2 d2 s fun a b => multiplyFp s.psw.pm 6 14 a b

/-- DE (R444). -/
def execDe (r1 x2 b2 : RegNum) (d2 : Disp) (s : State) : Out :=
  fpRXShort r1 x2 b2 d2 s fun a b => divideFp s.psw.pm 6 a b

/-- AU (R445). -/
def execAu (r1 x2 b2 : RegNum) (d2 : Disp) (s : State) : Out :=
  fpRXShort r1 x2 b2 d2 s fun a b => addSub s.psw.pm 6 a b false false

/-- SU (R446). -/
def execSu (r1 x2 b2 : RegNum) (d2 : Disp) (s : State) : Out :=
  fpRXShort r1 x2 b2 d2 s fun a b => addSub s.psw.pm 6 a b true false

end Sys2Proof.Machine
end

