-- ==== Sys2Proof/Machine/Logical.lean ====
section
/-! DEFINITION. Logical, byte and storage-to-storage operations (spec/43_general_logical_storage.md R280 to R332). -/

namespace Sys2Proof.Machine

/-! ## AND, OR, exclusive OR -/

/-- NR (R281). -/
def execNr (r1 r2 : RegNum) (s : State) : Out := finish (booleanResult s r1 (getReg s r1 &&& getReg s r2))

/-- N (R282). -/
def execN (r1 x2 b2 : RegNum) (d2 : Disp) (s : State) : Out :=
  finish (booleanResult s r1 (getReg s r1 &&& wordAt s x2 b2 d2))

/-- NI (R283). -/
def execNi (i2 : Byte) (b1 : RegNum) (d1 : Disp) (s : State) : Out :=
  finish (booleanByteResult s (ea s b1 d1) (readByte s (ea s b1 d1) &&& i2))

/-- NC (R284). -/
def execNc (l : Byte) (b1 : RegNum) (d1 : Disp) (b2 : RegNum) (d2 : Disp) (s : State) : Out :=
  finish (booleanField (· &&& ·) (byteCount l) (ea s b1 d1) (ea s b2 d2) s)

/-- OR (R285). -/
def execOr (r1 r2 : RegNum) (s : State) : Out := finish (booleanResult s r1 (getReg s r1 ||| getReg s r2))

/-- O (R286). -/
def execO (r1 x2 b2 : RegNum) (d2 : Disp) (s : State) : Out :=
  finish (booleanResult s r1 (getReg s r1 ||| wordAt s x2 b2 d2))

/-- OI (R287). -/
def execOi (i2 : Byte) (b1 : RegNum) (d1 : Disp) (s : State) : Out :=
  finish (booleanByteResult s (ea s b1 d1) (readByte s (ea s b1 d1) ||| i2))

/-- OC (R288). -/
def execOc (l : Byte) (b1 : RegNum) (d1 : Disp) (b2 : RegNum) (d2 : Disp) (s : State) : Out :=
  finish (booleanField (· ||| ·) (byteCount l) (ea s b1 d1) (ea s b2 d2) s)

/-- XR (R289). -/
def execXr (r1 r2 : RegNum) (s : State) : Out := finish (booleanResult s r1 (getReg s r1 ^^^ getReg s r2))

/-- X (R290). -/
def execX (r1 x2 b2 : RegNum) (d2 : Disp) (s : State) : Out :=
  finish (booleanResult s r1 (getReg s r1 ^^^ wordAt s x2 b2 d2))

/-- XI (R291). -/
def execXi (i2 : Byte) (b1 : RegNum) (d1 : Disp) (s : State) : Out :=
  finish (booleanByteResult s (ea s b1 d1) (readByte s (ea s b1 d1) ^^^ i2))

/-- XC (R292). -/
def execXc (l : Byte) (b1 : RegNum) (d1 : Disp) (b2 : RegNum) (d2 : Disp) (s : State) : Out :=
  finish (booleanField (· ^^^ ·) (byteCount l) (ea s b1 d1) (ea s b2 d2) s)

/-! ## Logical compare and test -/

/-- CLR (R293). -/
def execClr (r1 r2 : RegNum) (s : State) : Out :=
  finish (doneCc s (ccCompare (getReg s r1).toNat (getReg s r2).toNat))

/-- CL (R294). -/
def execCl (r1 x2 b2 : RegNum) (d2 : Disp) (s : State) : Out :=
  finish (doneCc s (ccCompare (getReg s r1).toNat (wordAt s x2 b2 d2).toNat))

/-- CLI (R295). -/
def execCli (i2 : Byte) (b1 : RegNum) (d1 : Disp) (s : State) : Out :=
  finish (doneCc s (ccCompare (readByte s (ea s b1 d1)).toNat i2.toNat))

/-- CLC (R296). -/
def execClc (l : Byte) (b1 : RegNum) (d1 : Disp) (b2 : RegNum) (d2 : Disp) (s : State) : Out :=
  finish (doneCc s (ccBytes (readField s (ea s b1 d1) (byteCount l)) (readField s (ea s b2 d2) (byteCount l))))

/-- CLM (R297). -/
def execClm (r1 m3 b2 : RegNum) (d2 : Disp) (s : State) : Out :=
  let bs := (maskPositions m3).map (byteOf (getReg s r1))
  finish (doneCc s (ccBytes bs (readField s (ea s b2 d2) bs.length)))

/-- TM (R298). -/
def execTm (i2 : Byte) (b1 : RegNum) (d1 : Disp) (s : State) : Out :=
  finish (doneCc s (ccTestMask (readByte s (ea s b1 d1)) i2))

/-! ## Byte insert and store -/

/-- IC (R299). -/
def execIc (r1 x2 b2 : RegNum) (d2 : Disp) (s : State) : Out :=
  finish (done (setReg s r1 ((getReg s r1).extractLsb' 8 24 ++ readByte s (eax s x2 b2 d2))))

/-- STC (R300). -/
def execStc (r1 x2 b2 : RegNum) (d2 : Disp) (s : State) : Out :=
  finish (done (writeByte s (eax s x2 b2 d2) ((getReg s r1).extractLsb' 0 8)))

/-- ICM (R301). -/
def execIcm (r1 m3 b2 : RegNum) (d2 : Disp) (s : State) : Out :=
  let ks := maskPositions m3
  let bs := readField s (ea s b2 d2) ks.length
  finish (doneCc (setReg s r1 (withBytes (getReg s r1) ks bs)) (ccInserted bs))

/-- STCM (R302). -/
def execStcm (r1 m3 b2 : RegNum) (d2 : Disp) (s : State) : Out :=
  finish (done (writeField s (ea s b2 d2) ((maskPositions m3).map (byteOf (getReg s r1)))))

/-! ## Moves -/

/-- MVI (R303). -/
def execMvi (i2 : Byte) (b1 : RegNum) (d1 : Disp) (s : State) : Out :=
  finish (done (writeByte s (ea s b1 d1) i2))

/-- MVC (R304). -/
def execMvc (l : Byte) (b1 : RegNum) (d1 : Disp) (b2 : RegNum) (d2 : Disp) (s : State) : Out :=
  finish (done (combineBytes (fun _ v => v) (byteCount l) (ea s b1 d1) (ea s b2 d2) s))

/-- MVN (R305). -/
def execMvn (l : Byte) (b1 : RegNum) (d1 : Disp) (b2 : RegNum) (d2 : Disp) (s : State) : Out :=
  finish (done (combineBytes (fun u v => hiNib u ++ loNib v) (byteCount l) (ea s b1 d1) (ea s b2 d2) s))

/-- MVZ (R306). -/
def execMvz (l : Byte) (b1 : RegNum) (d1 : Disp) (b2 : RegNum) (d2 : Disp) (s : State) : Out :=
  finish (done (combineBytes (fun u v => hiNib v ++ loNib u) (byteCount l) (ea s b1 d1) (ea s b2 d2) s))

/-- Translates `n` bytes from `a` on by the table at `t`, each result stored before the next byte is read (R307). -/
def translate (t : Addr) : Nat → Addr → State → State
  | 0, _, s => s
  | n + 1, a, s => translate t n (a + 1) (writeByte s a (readByte s (t + (readByte s a).setWidth 24)))

/-- TR (R307). -/
def execTr (l : Byte) (b1 : RegNum) (d1 : Disp) (b2 : RegNum) (d2 : Disp) (s : State) : Out :=
  finish (done (translate (ea s b2 d2) (byteCount l) (ea s b1 d1) s))

/-- Looks through `n` argument bytes from `a` on for the first nonzero function byte of the table at `t`: its argument
address, its function byte, and how many argument bytes are left after it (R308). -/
def findFunction (s : State) (t : Addr) : Nat → Addr → Option (Addr × Byte × Nat)
  | 0, _ => none
  | n + 1, a =>
    let f := readByte s (t + (readByte s a).setWidth 24)
    if f = 0 then findFunction s t n (a + 1) else some (a, f, n)

/-- TRT (R308). -/
def execTrt (l : Byte) (b1 : RegNum) (d1 : Disp) (b2 : RegNum) (d2 : Disp) (s : State) : Out :=
  finish <|
    match findFunction s (ea s b2 d2) (byteCount l) (ea s b1 d1) with
    | none => doneCc s 0
    | some (a, f, left) =>
      doneCc (setReg (setReg s 1 ((getReg s 1).extractLsb' 24 8 ++ a)) 2 ((getReg s 2).extractLsb' 8 24 ++ f))
        (if left = 0 then 2 else 1)

/-! ## MVCL and CLCL -/

/-- A length in an odd register of MVCL and CLCL: its low 24 bits (R309). -/
def regLength (s : State) (r : RegNum) : Addr := (getReg s r).extractLsb' 0 24

/-- The padding byte of MVCL and CLCL: the high byte of `x[r2+1]` (R309). -/
def padByte (s : State) (r : RegNum) : Byte := (getReg s r).extractLsb' 24 8

/-- Moves `n` bytes to `d`, left to right, from `a` while `srcLeft` bytes of it are left, then the padding byte
(R309). -/
def moveLong (pad : Byte) : (n srcLeft : Nat) → (d a : Addr) → State → State
  | 0, _, _, _, s => s
  | n + 1, 0, d, a, s => moveLong pad n 0 (d + 1) a (writeByte s d pad)
  | n + 1, k + 1, d, a, s => moveLong pad n k (d + 1) (a + 1) (writeByte s d (readByte s a))

/-- The registers after MVCL and CLCL: addresses with a zero high byte, remaining lengths, the padding byte kept
(R309, R310). -/
def setLongRegs (s : State) (r1 r2 : RegNum) (d l1 a l2 : Addr) (pad : Byte) : State :=
  let s := setReg s r1 (0#8 ++ d)
  let s := setReg s (r1 + 1) ((getReg s (r1 + 1)).extractLsb' 24 8 ++ l1)
  let s := setReg s r2 (0#8 ++ a)
  setReg s (r2 + 1) (pad ++ l2)

/-- MVCL (R309): a destructive overlap moves nothing and leaves the registers. -/
def execMvcl (r1 r2 : RegNum) (s : State) : Out :=
  finish <| whenEven r1 s <| whenEven r2 s <|
    let d := regAddr s r1
    let l1 := regLength s (r1 + 1)
    let a := regAddr s r2
    let l2 := regLength s (r2 + 1)
    let pad := padByte s (r2 + 1)
    let m : Addr := if l1.toNat ≤ l2.toNat then l1 else l2
    if 0 < (d - a).toNat ∧ (d - a).toNat < m.toNat then doneCc s 3
    else
      doneCc (setLongRegs (moveLong pad l1.toNat l2.toNat d a s) r1 r2 (d + l1) 0 (a + m) (l2 - m) pad)
        (ccCompare l1.toNat l2.toNat)

/-- What CLCL has reached: both addresses and remaining lengths, and the condition code (R310). -/
structure LongCompare where
  a : Addr
  l1 : Nat
  b : Addr
  l2 : Nat
  cc : CC
  deriving DecidableEq, Repr

/-- Compares left to right, the shorter operand extended with the padding byte, up to the first unequal byte; `n`
bounds the number of bytes (R310). -/
def compareLong (s : State) (pad : Byte) : Nat → LongCompare → LongCompare
  | 0, c => c
  | n + 1, c =>
    if c.l1 = 0 ∧ c.l2 = 0 then c
    else
      let u := if c.l1 = 0 then pad else readByte s c.a
      let v := if c.l2 = 0 then pad else readByte s c.b
      if u = v then
        compareLong s pad n
          { c with
            a := if c.l1 = 0 then c.a else c.a + 1, l1 := c.l1 - 1
            b := if c.l2 = 0 then c.b else c.b + 1, l2 := c.l2 - 1 }
      else { c with cc := if u.toNat < v.toNat then 1 else 2 }

/-- CLCL (R310). -/
def execClcl (r1 r2 : RegNum) (s : State) : Out :=
  finish <| whenEven r1 s <| whenEven r2 s <|
    let l1 := (regLength s (r1 + 1)).toNat
    let l2 := (regLength s (r2 + 1)).toNat
    let pad := padByte s (r2 + 1)
    let c := compareLong s pad (max l1 l2) ⟨regAddr s r1, l1, regAddr s r2, l2, 0⟩
    doneCc (setLongRegs s r1 r2 c.a (BitVec.ofNat 24 c.l1) c.b (BitVec.ofNat 24 c.l2) pad) c.cc

/-! ## Compare and swap, test and set -/

/-- The operand address is a multiple of `2^k`, else a specification exception before any access (R75). -/
def whenAligned (k : Nat) (a : Addr) (s : State) (r : Result) : Result :=
  if a.toNat % 2 ^ k = 0 then r else raise s .specification

/-- CS (R330). -/
def execCs (r1 r3 b2 : RegNum) (d2 : Disp) (s : State) : Out :=
  let a := ea s b2 d2
  finish <| whenAligned 2 a s <|
    if read32 s a = getReg s r1 then doneCc (write32 s a (getReg s r3)) 0
    else doneCc (setReg s r1 (read32 s a)) 1

/-- CDS (R331). -/
def execCds (r1 r3 b2 : RegNum) (d2 : Disp) (s : State) : Out :=
  let a := ea s b2 d2
  finish <| whenEven r1 s <| whenEven r3 s <| whenAligned 3 a s <|
    if read64 s a = getPair s r1 then doneCc (write64 s a (getPair s r3)) 0
    else doneCc (setPair s r1 (read64 s a)) 1

/-- TS (R332); `i2` is ignored. -/
def execTs (_i2 : Byte) (b1 : RegNum) (d1 : Disp) (s : State) : Out :=
  let a := ea s b1 d1
  finish (doneCc (writeByte s a 0xFF) (if (readByte s a).getLsbD 7 then 1 else 0))

end Sys2Proof.Machine
end

