-- ==== Sys2Proof/Machine/System.lean ====
section
/-! DEFINITION. PSW and system instructions (spec/41_psw_system.md R171 to R179). None of them checks the
problem-state flag (R170, spec/60_exceptions.md R590). -/

namespace Sys2Proof.Machine

/-- LPSW (R171), the return from an interruption (R552): misaligned, a specification exception; else the PSW load,
with its two failures. `i2` is ignored. -/
def execLpsw (_i2 : Byte) (b1 : RegNum) (d1 : Disp) (s : State) : Out :=
  let a := ea s b1 d1
  finish (if a.toNat % 8 = 0 then done (loadPsw s a) else raise s .specification)

/-- SSM (R172); `i2` is ignored. -/
def execSsm (_i2 : Byte) (b1 : RegNum) (d1 : Disp) (s : State) : Out :=
  finish (done (setSm s (readByte s (ea s b1 d1))))

/-- STNSM (R173). -/
def execStnsm (i2 : Byte) (b1 : RegNum) (d1 : Disp) (s : State) : Out :=
  finish (done (setSm (writeByte s (ea s b1 d1) s.psw.sm) (s.psw.sm &&& i2)))

/-- STOSM (R174). -/
def execStosm (i2 : Byte) (b1 : RegNum) (d1 : Disp) (s : State) : Out :=
  finish (done (setSm (writeByte s (ea s b1 d1) s.psw.sm) (s.psw.sm ||| i2)))

/-- SVC (R175): the supervisor-call interruption, made by the instruction itself. -/
def execSvc (i : Byte) (s : State) : Out := finish (done (initiate s 32 96 (i.setWidth 16)))

/-- SPM (R176); `r2` is ignored. -/
def execSpm (r1 _r2 : RegNum) (s : State) : Out :=
  finish (doneCc (setPm s ((getReg s r1).extractLsb' 24 4)) ((getReg s r1).extractLsb' 28 2))

/-- The page of an address in a register: its bits 23 to 11 (R177). -/
def pageOf (s : State) (r : RegNum) : BitVec 13 := (getReg s r).extractLsb' 11 13

/-- SSK (R177). -/
def execSsk (r1 r2 : RegNum) (s : State) : Out :=
  finish (done (writeKey s (pageOf s r2) ((getReg s r1).extractLsb' 1 7 ++ 0#1)))

/-- ISK (R178). -/
def execIsk (r1 r2 : RegNum) (s : State) : Out :=
  let key := readKey s (pageOf s r2)
  finish (done (setReg s r1 ((getReg s r1).extractLsb' 8 24 ++ key.extractLsb' 3 5 ++ 0#3)))

/-- The clock value STCK stores for a host time of `us` microseconds: the microsecond count above twelve zero bits, or
the successor of the last value when that is not greater (R179). -/
def clockValue (last : DWord) (us : Nat) : DWord :=
  let v : DWord := BitVec.ofNat 52 us ++ 0#12
  if v.toNat ≤ last.toNat then last + 1 else v

/-- STCK with the host time given (R179). -/
def storeClock (us : Nat) (a : Addr) (s : State) : Result :=
  let v := clockValue s.lastClock us
  doneCc (write64 { s with lastClock := v } a v) 0

/-- The next reading of the host's clock, in microseconds since 1900 (R179): a free value (log 8). -/
def hostTime (s : State) : Nat := Config.hostMicros s.clockReads + Config.todEpochOffset * 10 ^ 6

/-- STCK (R179). -/
def execStck (b2 : RegNum) (d2 : Disp) (s : State) : Out :=
  finish (storeClock (hostTime s) (ea s b2 d2) { s with clockReads := s.clockReads + 1 })

end Sys2Proof.Machine
end

