-- ==== Sys2Proof/Machine/Execute.lean ====
section
/-! DEFINITION. Fetching an instruction's bytes, and EX (spec/40_decode_execute.md R152, R153). -/

namespace Sys2Proof.Machine

/-- The six bytes from an address on: every instruction lies in them (spec/30_encoding.md R100, R110). A read has no
side effect (spec/20_memory.md R78), so reading past a shorter instruction changes nothing. -/
def fetch (s : State) (a : Addr) : List Byte := readField s a 6

/-- The instruction byte string with a byte OR-ed into its second byte (R152). -/
def orSecond (b : Byte) : List Byte → List Byte
  | b0 :: b1 :: bs => b0 :: (b1 ||| b) :: bs
  | bs => bs

/-- Runs the target of an EX: the meaning of every instruction but EX itself, which raises the execute exception, since
EX never recurses more than one level (R153). -/
def runTarget (i : Instr) (s : State) : Out :=
  match i with
  | .spm r1 r2 => execSpm r1 r2 s
  | .balr r1 r2 => execBalr r1 r2 s
  | .bctr r1 r2 => execBctr r1 r2 s
  | .bcr m1 r2 => execBcr m1 r2 s
  | .ssk r1 r2 => execSsk r1 r2 s
  | .isk r1 r2 => execIsk r1 r2 s
  | .svc i => execSvc i s
  | .basr r1 r2 => execBasr r1 r2 s
  | .mvcl r1 r2 => execMvcl r1 r2 s
  | .clcl r1 r2 => execClcl r1 r2 s
  | .lpr r1 r2 => execLpr r1 r2 s
  | .lnr r1 r2 => execLnr r1 r2 s
  | .ltr r1 r2 => execLtr r1 r2 s
  | .lcr r1 r2 => execLcr r1 r2 s
  | .nr r1 r2 => execNr r1 r2 s
  | .clr r1 r2 => execClr r1 r2 s
  | .or r1 r2 => execOr r1 r2 s
  | .xr r1 r2 => execXr r1 r2 s
  | .lr r1 r2 => execLr r1 r2 s
  | .cr r1 r2 => execCr r1 r2 s
  | .ar r1 r2 => execAr r1 r2 s
  | .sr r1 r2 => execSr r1 r2 s
  | .mr r1 r2 => execMr r1 r2 s
  | .dr r1 r2 => execDr r1 r2 s
  | .alr r1 r2 => execAlr r1 r2 s
  | .slr r1 r2 => execSlr r1 r2 s
  | .lpdr r1 r2 => execLpdr r1 r2 s
  | .lndr r1 r2 => execLndr r1 r2 s
  | .ltdr r1 r2 => execLtdr r1 r2 s
  | .lcdr r1 r2 => execLcdr r1 r2 s
  | .hdr r1 r2 => execHdr r1 r2 s
  | .ldr r1 r2 => execLdr r1 r2 s
  | .cdr r1 r2 => execCdr r1 r2 s
  | .adr r1 r2 => execAdr r1 r2 s
  | .sdr r1 r2 => execSdr r1 r2 s
  | .mdr r1 r2 => execMdr r1 r2 s
  | .ddr r1 r2 => execDdr r1 r2 s
  | .awr r1 r2 => execAwr r1 r2 s
  | .swr r1 r2 => execSwr r1 r2 s
  | .lper r1 r2 => execLper r1 r2 s
  | .lner r1 r2 => execLner r1 r2 s
  | .lter r1 r2 => execLter r1 r2 s
  | .lcer r1 r2 => execLcer r1 r2 s
  | .her r1 r2 => execHer r1 r2 s
  | .lrer r1 r2 => execLrer r1 r2 s
  | .ler r1 r2 => execLer r1 r2 s
  | .cer r1 r2 => execCer r1 r2 s
  | .aer r1 r2 => execAer r1 r2 s
  | .ser r1 r2 => execSer r1 r2 s
  | .mer r1 r2 => execMer r1 r2 s
  | .der r1 r2 => execDer r1 r2 s
  | .aur r1 r2 => execAur r1 r2 s
  | .sur r1 r2 => execSur r1 r2 s
  | .sth r1 x2 b2 d2 => execSth r1 x2 b2 d2 s
  | .la r1 x2 b2 d2 => execLa r1 x2 b2 d2 s
  | .stc r1 x2 b2 d2 => execStc r1 x2 b2 d2 s
  | .ic r1 x2 b2 d2 => execIc r1 x2 b2 d2 s
  | .ex _ _ _ _ => finish (raise s .execute)
  | .bal r1 x2 b2 d2 => execBal r1 x2 b2 d2 s
  | .bct r1 x2 b2 d2 => execBct r1 x2 b2 d2 s
  | .bc m1 x2 b2 d2 => execBc m1 x2 b2 d2 s
  | .lh r1 x2 b2 d2 => execLh r1 x2 b2 d2 s
  | .ch r1 x2 b2 d2 => execCh r1 x2 b2 d2 s
  | .ah r1 x2 b2 d2 => execAh r1 x2 b2 d2 s
  | .sh r1 x2 b2 d2 => execSh r1 x2 b2 d2 s
  | .mh r1 x2 b2 d2 => execMh r1 x2 b2 d2 s
  | .bas r1 x2 b2 d2 => execBas r1 x2 b2 d2 s
  | .cvd r1 x2 b2 d2 => execCvd r1 x2 b2 d2 s
  | .cvb r1 x2 b2 d2 => execCvb r1 x2 b2 d2 s
  | .st r1 x2 b2 d2 => execSt r1 x2 b2 d2 s
  | .n r1 x2 b2 d2 => execN r1 x2 b2 d2 s
  | .cl r1 x2 b2 d2 => execCl r1 x2 b2 d2 s
  | .o r1 x2 b2 d2 => execO r1 x2 b2 d2 s
  | .x r1 x2 b2 d2 => execX r1 x2 b2 d2 s
  | .l r1 x2 b2 d2 => execL r1 x2 b2 d2 s
  | .c r1 x2 b2 d2 => execC r1 x2 b2 d2 s
  | .a r1 x2 b2 d2 => execA r1 x2 b2 d2 s
  | .s r1 x2 b2 d2 => execS r1 x2 b2 d2 s
  | .m r1 x2 b2 d2 => execM r1 x2 b2 d2 s
  | .d r1 x2 b2 d2 => execD r1 x2 b2 d2 s
  | .al r1 x2 b2 d2 => execAl r1 x2 b2 d2 s
  | .sl r1 x2 b2 d2 => execSl r1 x2 b2 d2 s
  | .std r1 x2 b2 d2 => execStd r1 x2 b2 d2 s
  | .ld r1 x2 b2 d2 => execLd r1 x2 b2 d2 s
  | .cd r1 x2 b2 d2 => execCd r1 x2 b2 d2 s
  | .ad r1 x2 b2 d2 => execAd r1 x2 b2 d2 s
  | .sd r1 x2 b2 d2 => execSd r1 x2 b2 d2 s
  | .md r1 x2 b2 d2 => execMd r1 x2 b2 d2 s
  | .dd r1 x2 b2 d2 => execDd r1 x2 b2 d2 s
  | .aw r1 x2 b2 d2 => execAw r1 x2 b2 d2 s
  | .sw r1 x2 b2 d2 => execSw r1 x2 b2 d2 s
  | .ste r1 x2 b2 d2 => execSte r1 x2 b2 d2 s
  | .le r1 x2 b2 d2 => execLe r1 x2 b2 d2 s
  | .ce r1 x2 b2 d2 => execCe r1 x2 b2 d2 s
  | .ae r1 x2 b2 d2 => execAe r1 x2 b2 d2 s
  | .se r1 x2 b2 d2 => execSe r1 x2 b2 d2 s
  | .me r1 x2 b2 d2 => execMe r1 x2 b2 d2 s
  | .de r1 x2 b2 d2 => execDe r1 x2 b2 d2 s
  | .au r1 x2 b2 d2 => execAu r1 x2 b2 d2 s
  | .su r1 x2 b2 d2 => execSu r1 x2 b2 d2 s
  | .ssm i2 b1 d1 => execSsm i2 b1 d1 s
  | .lpsw i2 b1 d1 => execLpsw i2 b1 d1 s
  | .diag r1 r3 b2 d2 => execDiag r1 r3 b2 d2 s
  | .bxh r1 r3 b2 d2 => execBxh r1 r3 b2 d2 s
  | .bxle r1 r3 b2 d2 => execBxle r1 r3 b2 d2 s
  | .srl r1 r3 b2 d2 => execSrl r1 r3 b2 d2 s
  | .sll r1 r3 b2 d2 => execSll r1 r3 b2 d2 s
  | .sra r1 r3 b2 d2 => execSra r1 r3 b2 d2 s
  | .sla r1 r3 b2 d2 => execSla r1 r3 b2 d2 s
  | .srdl r1 r3 b2 d2 => execSrdl r1 r3 b2 d2 s
  | .sldl r1 r3 b2 d2 => execSldl r1 r3 b2 d2 s
  | .srda r1 r3 b2 d2 => execSrda r1 r3 b2 d2 s
  | .slda r1 r3 b2 d2 => execSlda r1 r3 b2 d2 s
  | .stm r1 r3 b2 d2 => execStm r1 r3 b2 d2 s
  | .tm i2 b1 d1 => execTm i2 b1 d1 s
  | .mvi i2 b1 d1 => execMvi i2 b1 d1 s
  | .ts i2 b1 d1 => execTs i2 b1 d1 s
  | .ni i2 b1 d1 => execNi i2 b1 d1 s
  | .cli i2 b1 d1 => execCli i2 b1 d1 s
  | .oi i2 b1 d1 => execOi i2 b1 d1 s
  | .xi i2 b1 d1 => execXi i2 b1 d1 s
  | .lm r1 r3 b2 d2 => execLm r1 r3 b2 d2 s
  | .sio u b2 d2 => execSio u b2 d2 s
  | .siof u b2 d2 => execSiof u b2 d2 s
  | .tio u b2 d2 => execTio u b2 d2 s
  | .hio u b2 d2 => execHio u b2 d2 s
  | .hdv u b2 d2 => execHdv u b2 d2 s
  | .tch u b2 d2 => execTch u b2 d2 s
  | .stnsm i2 b1 d1 => execStnsm i2 b1 d1 s
  | .stosm i2 b1 d1 => execStosm i2 b1 d1 s
  | .stck b2 d2 => execStck b2 d2 s
  | .sckc b2 d2 => execSckc b2 d2 s
  | .stckc b2 d2 => execStckc b2 d2 s
  | .ptlb b2 d2 => execPtlb b2 d2 s
  | .spx b2 d2 => execSpx b2 d2 s
  | .stpx b2 d2 => execStpx b2 d2 s
  | .stap b2 d2 => execStap b2 d2 s
  | .stctl r1 r3 b2 d2 => execStctl r1 r3 b2 d2 s
  | .lctl r1 r3 b2 d2 => execLctl r1 r3 b2 d2 s
  | .cs r1 r3 b2 d2 => execCs r1 r3 b2 d2 s
  | .cds r1 r3 b2 d2 => execCds r1 r3 b2 d2 s
  | .clm r1 m3 b2 d2 => execClm r1 m3 b2 d2 s
  | .stcm r1 m3 b2 d2 => execStcm r1 m3 b2 d2 s
  | .icm r1 m3 b2 d2 => execIcm r1 m3 b2 d2 s
  | .mvn l b1 d1 b2 d2 => execMvn l b1 d1 b2 d2 s
  | .mvc l b1 d1 b2 d2 => execMvc l b1 d1 b2 d2 s
  | .mvz l b1 d1 b2 d2 => execMvz l b1 d1 b2 d2 s
  | .nc l b1 d1 b2 d2 => execNc l b1 d1 b2 d2 s
  | .clc l b1 d1 b2 d2 => execClc l b1 d1 b2 d2 s
  | .oc l b1 d1 b2 d2 => execOc l b1 d1 b2 d2 s
  | .xc l b1 d1 b2 d2 => execXc l b1 d1 b2 d2 s
  | .tr l b1 d1 b2 d2 => execTr l b1 d1 b2 d2 s
  | .trt l b1 d1 b2 d2 => execTrt l b1 d1 b2 d2 s
  | .ed l b1 d1 b2 d2 => execEd l b1 d1 b2 d2 s
  | .edmk l b1 d1 b2 d2 => execEdmk l b1 d1 b2 d2 s
  | .srp l1 i3 b1 d1 b2 d2 => execSrp l1 i3 b1 d1 b2 d2 s
  | .mvo l1 l2 b1 d1 b2 d2 => execMvo l1 l2 b1 d1 b2 d2 s
  | .pack l1 l2 b1 d1 b2 d2 => execPack l1 l2 b1 d1 b2 d2 s
  | .unpk l1 l2 b1 d1 b2 d2 => execUnpk l1 l2 b1 d1 b2 d2 s
  | .zap l1 l2 b1 d1 b2 d2 => execZap l1 l2 b1 d1 b2 d2 s
  | .cp l1 l2 b1 d1 b2 d2 => execCp l1 l2 b1 d1 b2 d2 s
  | .ap l1 l2 b1 d1 b2 d2 => execAp l1 l2 b1 d1 b2 d2 s
  | .sp l1 l2 b1 d1 b2 d2 => execSp l1 l2 b1 d1 b2 d2 s
  | .mp l1 l2 b1 d1 b2 d2 => execMp l1 l2 b1 d1 b2 d2 s
  | .dp l1 l2 b1 d1 b2 d2 => execDp l1 l2 b1 d1 b2 d2 s

/-- The end of a target's execution: the flag is off again, also when the target was handed off or ended the call
(R43, R152; log 18). -/
def endTarget : Out → Out
  | .next t => .next { t with exTarget := false }
  | .fault r => .fault r
  | .refused r => .refused r

/-- Executes the bytes of an EX target, the second already OR-ed (R149, R152): `pc` and the ILC stay; bytes with no row
are handed off. An override of `executeOne` shorter than its instruction's length is handed off as having no row: DESIGN
CHOICE (log 23), since R149 gives the override the bytes of a whole target. A target that EX fetches has all its bytes. -/
def executeTarget (bs : List Byte) (s : State) : Out :=
  match decode bs with
  | .ok (i, _) => endTarget (runTarget i { s with exTarget := true })
  | .error _ => .next (handOffBytes s bs)

/-- EX (R152): nested, odd and EX targets raise before anything else, in the rule's order. -/
def execEx (r1 x2 b2 : RegNum) (d2 : Disp) (s : State) : Out :=
  let a := eax s x2 b2 d2
  if s.exTarget then finish (raise s .execute)
  else if a.getLsbD 0 then finish (raise s .specification)
  else if readByte s a = 0x44 then finish (raise s .execute)
  else
    executeTarget (if r1 = 0 then fetch s a else orSecond ((getReg s r1).extractLsb' 0 8) (fetch s a)) s

end Sys2Proof.Machine
end

