-- ==== Sys2Proof/Machine/Loop.lean ====
section
/-! DEFINITION. The decode/execute loop (spec/40_decode_execute.md R141 to R151): one instruction, one iteration,
`execute` and `executeOne`; and the placing of an instruction where the next step fetches it. -/

namespace Sys2Proof.Machine

/-- The advance before the instruction's effect (R144): the ILC in halfwords, `pc` past the instruction modulo 2^24. -/
def advance (s : State) (len : Nat) : State :=
  setPc (setIlc s (BitVec.ofNat 2 (len / 2))) (offset s.psw.pc len)

/-- `Step()` (R143): an odd `pc` is a specification exception with nothing fetched; else fetch, advance, and the
meaning of the row, or the hand-off of an encoding with no row. -/
def instrStep (s : State) : Out :=
  if s.psw.pc.getLsbD 0 then .next (programInterrupt s .specification)
  else
    let bs := fetch s s.psw.pc
    let t := advance s (instrLength (bs.headD 0))
    match decode bs with
    | .ok (i, _) => exec i t
    | .error _ => .next (handOffBytes t bs)

/-- A step counts as one instruction for the dead time (R39, R147). -/
def countStep : Out → Out
  | .next t => .next { t with sinceIrq := t.sinceIrq + 1 }
  | .fault r => .fault r
  | .refused r => .refused r

/-- One iteration of `execute` (R142): the halt poll, the boundary check, the wait test, the step, the count. What ends
the call, if anything does, is in `result`. -/
def iteration (s : State) : Out :=
  let s := setResult s .budget
  if s.halt then .next s
  else
    let b := boundaryCheck s
    if b.result ≠ .budget then .next b
    else if b.psw.w then .next (setResult b .enabledWait)
    else countStep (instrStep b)

/-- `execute(max)` (R141, R142): its return value is the `result` of the state it gives. A set `halt` leaves every
iteration without effect, so the call returns `budget` (R150). -/
def execute : Nat → State → Out
  | 0, s => .next (setResult s .budget)
  | n + 1, s =>
    match iteration s with
    | .next t => if t.result = .budget then execute n t else .next t
    | .fault r => .fault r
    | .refused r => .refused r

/-- `executeOne(override)` (R149): one step with no boundary check and no wait test; with an override, the bytes of an
EX target (log 18; an override with too few bytes, log 23). A set `halt` does not keep it from its step: DESIGN CHOICE (log 21), since R150 speaks of the run loop
of `execute` and R149 does not name `halt`. -/
def executeOne (override : Option (List Byte)) (s : State) : Out :=
  match override with
  | none => countStep (instrStep (setResult s .budget))
  | some bs => executeTarget bs (setResult s .budget)

/-- A source would be delivered at the next boundary, were the dead time over. -/
def wouldDeliver (s : State) : Bool := (enqueueAsync s).queue.any (deliverable s)

/-- The state made ready to run the instruction at `pc` next: not halted, not waiting, `pc` even, and, only where a
source could be delivered first, the system mask zero. A running state with an even `pc` and nothing deliverable, the
reset state for one, is unchanged (log 14). -/
def readyToFetch (s : State) : State :=
  let t := { s with halt := false, psw := { s.psw with w := false, pc := s.psw.pc &&& ~~~1#24 } }
  if wouldDeliver t then setSm t 0 else t

/-- The bytes stored from `pc` upward in the state made ready. -/
def placeAtPc (s : State) (bs : List Byte) : State :=
  let t := readyToFetch s
  writeField t t.psw.pc bs

end Sys2Proof.Machine
end

