-- ==== Sys2Proof/Machine/Step.lean ====
section
/-! DEFINITION. One step of the machine, and an instruction placed where it is fetched. -/

namespace Sys2Proof.Machine

/-- One step: one iteration of the `execute` loop (spec/40_decode_execute.md R142), that is, `execute(1)` with its
return value in `result` (log 4). No host action happens in it (log 13). -/
def step (s : State) : Host.Outcome State Fault Refusal := iteration s

/-- `s` with the instruction of the table word `w` of `nbits` bits (the bits above them zero, six bytes in all) stored
where `step` fetches its next instruction (logs 14, 15). -/
def State.withFetchWord (s : State) (nbits w : Nat) : State := placeAtPc s (tableBytes nbits w)

end Sys2Proof.Machine
end

