-- ==== Sys2Proof/Machine/HostInterface.lean ====
section
/-! DEFINITION. What the host may do to the block between two calls (spec/60_exceptions.md R584,
spec/70_reset_and_hazards.md R600 to R603), and a run as the host drives it: its actions and its calls of `execute`. -/

namespace Sys2Proof.Machine

/-- An action of the host on the block's state, between calls (R584), or on the inputs the block reads (R570). -/
inductive HostAction where
  /-- `reset` (R600) with the contents of memory and keys that it leaves, the open `initMem`: every piece of state takes
  its reset value; the inputs, the interrupt sources among them, are not touched (R20, R602; logs 8, 10, 11). -/
  | reset (initMem initKeys : Memory)
  | writeReg (r : RegNum) (v : Word)
  | writeFpr (r : FReg) (v : FloatValue)
  | writeByte (a : Addr) (v : Byte)
  | writeKey (page : BitVec 13) (v : Byte)
  | writePsw (p : PSW)
  /-- Completes a handed-off instruction that sets the condition code (R584, R613 d). -/
  | setCc (c : CC)
  /-- `HostLoadPSW(image)`, with the two failures of a PSW load. -/
  | loadPsw (image : DWord)
  /-- `Enqueue(source)` (R571). -/
  | enqueue (src : SourceId)
  /-- `TimerTick()` (R580). -/
  | timerTick
  /-- The halt flag, set and cleared by the host alone (R150). -/
  | setHalt (on : Bool)
  /-- `HostProgramInterrupt(code)`: reflects any condition of R541, the three the block never raises included. -/
  | programInterrupt (e : ProgramException)
  /-- Attaches a device handler at the end of the list of sources (R570). -/
  | attach (d : Device)
  /-- A device's pending flags: raised by the device, consumed by the host (R575). -/
  | setPending (index : Nat) (async completion : Bool)
  deriving DecidableEq, Repr

/-- The effect of a host action. `result`, what the latest `execute` call returned, is not the host's to change, so that
a valid hand-off record stays valid until the next call (R613 a); a failed PSW load is reported by `hostFailure`. -/
def hostAct (a : HostAction) (s : State) : State :=
  match a with
  | .reset m k =>
    { State.resetWith m k with devices := s.devices, clockReads := s.clockReads, statusDraws := s.statusDraws }
  | .writeReg r v => Machine.setReg s r v
  | .writeFpr r v => Machine.setFpr s r v
  | .writeByte a v => Machine.writeByte s a v
  | .writeKey p v => Machine.writeKey s p v
  | .writePsw p => { s with psw := p }
  | .setCc c => Machine.setCc s c
  | .loadPsw img => { loadPswImage s img with result := s.result }
  | .enqueue src => Machine.enqueue s src
  | .timerTick => Machine.timerTick s
  | .setHalt on => { s with halt := on }
  | .programInterrupt e => { Machine.programInterrupt s e with result := s.result }
  | .attach d => { s with devices := s.devices ++ [d] }
  | .setPending n async completion =>
    match s.devices[n]? with
    | some d => { s with devices := s.devices.set n { d with async := async, completion := completion } }
    | none => s

/-- The failure that a PSW load has left in `result`. -/
def loadFailure (s : State) : Option PswLoadKind :=
  match s.result with
  | .pswLoadFault kind => some kind
  | _ => none

/-- What `HostLoadPSW` and `HostProgramInterrupt` report: one of the two failures of a PSW load, or none (R584). R584 does
not say where; that they answer it to the host themselves, beside the state, is DESIGN CHOICE (log 22). -/
def hostFailure (a : HostAction) (s : State) : Option PswLoadKind :=
  match a with
  | .loadPsw img => loadFailure (loadPswImage (setResult s .budget) img)
  | .programInterrupt e => loadFailure (Machine.programInterrupt (setResult s .budget) e)
  | _ => none

/-- The latest call ended with a hand-off, so that the record holds its operands (R42, R613 a). -/
def recordValid (s : State) : Bool :=
  match s.result with
  | .sentinel _ _ => true
  | .unknownInstruction => true
  | _ => false

/-- What the host's `n`-th read of the hand-off record gives: the record after a hand-off, else anything (R42, R613 a;
log 3). -/
def readRecord (s : State) (n : Nat) : HandoffRecord :=
  if recordValid s then s.record
  else
    let w := Config.staleRecord n
    ⟨w.extractLsb' 68 4, w.extractLsb' 64 4, w.extractLsb' 56 8, w.extractLsb' 32 24, w.extractLsb' 0 32⟩

/-- What happens to the block: a host action, or a call of `execute` or `executeOne` (R140). -/
inductive Event where
  | host (a : HostAction)
  | execute (max : Nat)
  | executeOne (override : Option (List Byte))
  deriving DecidableEq, Repr

/-- The effect of an event. -/
def happen (e : Event) (s : State) : Out :=
  match e with
  | .host a => .next (hostAct a s)
  | .execute n => Machine.execute n s
  | .executeOne o => Machine.executeOne o s

/-- A run as the host drives it. -/
def runEvents : List Event → State → Out
  | [], s => .next s
  | e :: es, s =>
    match happen e s with
    | .next t => runEvents es t
    | .fault r => .fault r
    | .refused r => .refused r

end Sys2Proof.Machine
end

