-- ==== Sys2Proof/Safety.lean ====
section
/-! DEFINITION. The terms in which claims speak of states and runs: the canonical form of a state, the PSW states of
spec/10_state.md R33, and frames. -/

namespace Sys2Proof.Machine

/-- Every floating-point register holds a FloatValue of R362 with an exponent of R379. -/
def FpRegs.wf (f : FpRegs) : Bool := f.f0.wf && f.f2.wf && f.f4.wf && f.f6.wf

/-- Memory and the key array are in their canonical form. -/
def memoryCanonical (s : State) : Bool := Memory.wf memorySize s.mem && Memory.wf keyCount s.keys

/-- The queue holds no source twice (R38, R577 d), and no EX target is being executed (R43). -/
def controlCanonical (s : State) : Bool := decide s.queue.Nodup && !s.exTarget

/-- Running (R33). -/
def isRunning (s : State) : Bool := !s.psw.w

/-- Enabled-Wait (R33). -/
def isEnabledWait (s : State) : Bool := s.psw.w && s.psw.sm != 0

/-- Disabled-Wait (R33). -/
def isDisabledWait (s : State) : Bool := s.psw.w && s.psw.sm == 0

/-- The bytes of memory outside the `n` bytes from `a` up (modulo 2^24) read the same in both states. -/
def SameOutside (s t : State) (a : Addr) (n : Nat) : Prop :=
  ∀ x : Addr, n ≤ (x - a).toNat → readByte t x = readByte s x

/-- All but the PSW, the general registers, the floating-point registers and memory is the same: keys, queue, counters,
timer and clock, hand-off record, flags, the inputs and the return value. -/
def SameControl (s t : State) : Prop :=
  t.keys = s.keys ∧ t.queue = s.queue ∧ t.sinceIrq = s.sinceIrq ∧ t.timerPending = s.timerPending ∧
    t.lastClock = s.lastClock ∧ t.record = s.record ∧ t.exTarget = s.exTarget ∧ t.halt = s.halt ∧
    t.result = s.result ∧ t.devices = s.devices ∧ t.clockReads = s.clockReads ∧ t.statusDraws = s.statusDraws

/-- Every byte of memory reads the same in both states. -/
def SameMemory (s t : State) : Prop := ∀ a : Addr, readByte t a = readByte s a

/-- Every general register but the listed ones is the same in both states. -/
def SameRegsBut (rs : List RegNum) (s t : State) : Prop := ∀ r : RegNum, r ∉ rs → getReg t r = getReg s r

/-- Every floating-point register but the listed ones is the same in both states. -/
def SameFprsBut (fs : List FReg) (s t : State) : Prop := ∀ f : FReg, f ∉ fs → getFpr t f = getFpr s f

/-- All but the listed registers, the PSW and memory is the same. -/
def Frame (rs : List RegNum) (fs : List FReg) (s t : State) : Prop :=
  SameRegsBut rs s t ∧ SameFprsBut fs s t ∧ SameControl s t

/-! ## What `exec` answers

`exec i s` runs after the loop has advanced `pc` and set the ILC, so `s` is the state the rule of `i` starts from. -/

/-- `exec` answers a next state, and it has the property. -/
def Gives (i : Instr) (s : State) (P : State → Prop) : Prop := ∃ t, exec i s = .next t ∧ P t

/-- The instruction ends with the program interruption `e`, the state otherwise as it was. -/
def Traps (i : Instr) (s : State) (e : ProgramException) : Prop := exec i s = .next (programInterrupt s e)

/-- The instruction sets the condition code, and changes nothing else. -/
def SetsCc (i : Instr) (s : State) (c : CC) : Prop :=
  Gives i s fun t => t.psw = { s.psw with cc := c } ∧ Frame [] [] s t ∧ SameMemory s t

/-- The instruction sets `pc`, and changes nothing else. -/
def SetsPc (i : Instr) (s : State) (a : Addr) : Prop :=
  Gives i s fun t => t.psw = { s.psw with pc := a } ∧ Frame [] [] s t ∧ SameMemory s t

/-- The instruction sets one general register, and changes nothing else. -/
def SetsReg (i : Instr) (s : State) (r : RegNum) (v : Word) : Prop :=
  Gives i s fun t => getReg t r = v ∧ t.psw = s.psw ∧ Frame [r] [] s t ∧ SameMemory s t

/-- The instruction sets one general register and the condition code, and changes nothing else. -/
def SetsRegCc (i : Instr) (s : State) (r : RegNum) (v : Word) (c : CC) : Prop :=
  Gives i s fun t => getReg t r = v ∧ t.psw = { s.psw with cc := c } ∧ Frame [r] [] s t ∧ SameMemory s t

/-- The instruction sets one general register and `pc`, and changes nothing else. -/
def SetsRegPc (i : Instr) (s : State) (r : RegNum) (v : Word) (a : Addr) : Prop :=
  Gives i s fun t => getReg t r = v ∧ t.psw = { s.psw with pc := a } ∧ Frame [r] [] s t ∧ SameMemory s t

/-- The instruction sets an even-odd pair, and changes nothing else. -/
def SetsPair (i : Instr) (s : State) (r : RegNum) (v : DWord) : Prop :=
  Gives i s fun t => getPair t r = v ∧ t.psw = s.psw ∧ Frame [r, r + 1] [] s t ∧ SameMemory s t

/-- The instruction sets an even-odd pair and the condition code, and changes nothing else. -/
def SetsPairCc (i : Instr) (s : State) (r : RegNum) (v : DWord) (c : CC) : Prop :=
  Gives i s fun t => getPair t r = v ∧ t.psw = { s.psw with cc := c } ∧ Frame [r, r + 1] [] s t ∧ SameMemory s t

/-- The instruction sets one floating-point register, and changes nothing else. -/
def SetsFpr (i : Instr) (s : State) (f : FReg) (v : FloatValue) : Prop :=
  Gives i s fun t => getFpr t f = v ∧ t.psw = s.psw ∧ Frame [] [f] s t ∧ SameMemory s t

/-- The instruction sets one floating-point register and the condition code, and changes nothing else. -/
def SetsFprCc (i : Instr) (s : State) (f : FReg) (v : FloatValue) (c : CC) : Prop :=
  Gives i s fun t => getFpr t f = v ∧ t.psw = { s.psw with cc := c } ∧ Frame [] [f] s t ∧ SameMemory s t

/-- The instruction stores the bytes from `a` up, and changes nothing else. -/
def Stores (i : Instr) (s : State) (a : Addr) (bs : List Byte) : Prop :=
  Gives i s fun t => readField t a bs.length = bs ∧ SameOutside s t a bs.length ∧ t.psw = s.psw ∧ Frame [] [] s t

/-- The instruction stores the bytes from `a` up and sets the condition code, and changes nothing else. -/
def StoresCc (i : Instr) (s : State) (a : Addr) (bs : List Byte) (c : CC) : Prop :=
  Gives i s fun t => readField t a bs.length = bs ∧ SameOutside s t a bs.length ∧
    t.psw = { s.psw with cc := c } ∧ Frame [] [] s t

/-! ## Values -/

/-- The condition code of a signed result: 0 zero, 1 negative, 2 positive. -/
def signCode (t : Int) : CC := if t = 0 then 0 else if t < 0 then 1 else 2

/-- The condition code of a comparison: 0 equal, 1 first low, 2 first high. -/
def orderCode (u v : Int) : CC := if u = v then 0 else if u < v then 1 else 2

/-- A 32-bit signed result. -/
def fitsWord (t : Int) : Prop := -2 ^ 31 ≤ t ∧ t < 2 ^ 31

/-- The bytes of a word that a mask selects, left to right. -/
def selectedBytes (m : RegNum) (v : Word) : List Byte :=
  (if m.getLsbD 3 then [v.extractLsb' 24 8] else []) ++ (if m.getLsbD 2 then [v.extractLsb' 16 8] else []) ++
    (if m.getLsbD 1 then [v.extractLsb' 8 8] else []) ++ (if m.getLsbD 0 then [v.extractLsb' 0 8] else [])

/-- A byte string as a number, the first byte most significant. -/
def bytesValue (bs : List Byte) : Nat := bs.foldl (fun n b => n * 256 + b.toNat) 0

/-- What the PSW image at an address loads: the fields of a PSW, byte by byte (R30, R32). -/
def pswAt (s : State) (a : Addr) (ilc : BitVec 2) : PSW where
  sm := readByte s a
  key := (readByte s (a + 1)).extractLsb' 4 4
  m := (readByte s (a + 1)).getLsbD 2
  w := (readByte s (a + 1)).getLsbD 1
  ic := 0
  ilc := ilc
  cc := (readByte s (a + 4)).extractLsb' 4 2
  pm := (readByte s (a + 4)).extractLsb' 0 4
  pc := readByte s (a + 5) ++ readByte s (a + 6) ++ readByte s (a + 7)

/-- The image at an address loads without a failure: no EC bit, no wait with the mask zero. -/
def pswLoads (s : State) (a : Addr) : Prop :=
  (readByte s (a + 1)).getLsbD 3 = false ∧ ¬((readByte s (a + 1)).getLsbD 1 = true ∧ readByte s a = 0)

/-- `val(v)`, the number a FloatValue denotes (R362). -/
def FloatValue.val (v : FloatValue) : ℚ :=
  if v.z then 0 else (if v.pos then 1 else -1) * v.F * (16 : ℚ) ^ (v.e - 14)

/-- `v` is the number `r` cut toward zero to `D` hexadecimal digits (R368). -/
def TruncatesTo (D : Nat) (r : ℚ) (v : FloatValue) : Prop :=
  if r = 0 then v = FloatValue.zero
  else
    v.z = false ∧ v.pos = decide (0 < r) ∧
      ∃ N : Nat, v.F = N * 16 ^ (14 - D) ∧ 16 ^ (D - 1) ≤ N ∧ N < 16 ^ D ∧
        (N : ℚ) * 16 ^ (v.e - D) ≤ |r| ∧ |r| < ((N : ℚ) + 1) * 16 ^ (v.e - D)

/-- The condition code of a floating-point result: 0 zero, 1 negative, 2 positive. -/
def floatCode (v : FloatValue) : CC := if v.z then 0 else if v.pos then 2 else 1

/-! ## Edit, pattern byte by pattern byte (R516) -/

/-- Edit between two pattern bytes: storage as it then is, the source byte and whether its left nibble is next, the
significance indicator, whether the field has had a nonzero digit, and the mark. -/
structure EditPoint where
  byte : Addr → Byte
  source : Addr
  left : Bool
  sig : Bool
  nz : Bool
  mark : Option Addr

/-- A pattern byte that takes a source digit: the digit selector 20 or the significance starter 21. -/
def takesDigit (c : Byte) : Prop := c = 0x20 ∨ c = 0x21

/-- The pattern byte at `a` takes the left nibble of the source byte, which is not a digit (R478). -/
def BadEditDigit (a : Addr) (p : EditPoint) : Prop :=
  takesDigit (p.byte a) ∧ p.left = true ∧ 9 < ((p.byte p.source).extractLsb' 4 4).toNat

/-- What Edit does with the pattern byte at `a`, the first one or a later one. A digit selector or significance starter
takes the source digit: a nonzero digit, or any with significance on, is stored zoned, else the fill byte; a nonzero digit
or the starter turns significance on; a sign code right of a left digit is consumed with it, and a plus sign turns
significance off. A field separator starts a new field. A message byte stays where it is the first or significance is on,
else the fill byte replaces it. -/
def EditsByte (fill : Byte) (first : Bool) (a : Addr) (p q : EditPoint) : Prop :=
  let c := p.byte a
  let d : BitVec 4 := (p.byte p.source).extractLsb' (if p.left then 4 else 0) 4
  let right : BitVec 4 := (p.byte p.source).extractLsb' 0 4
  (∀ x, x ≠ a → q.byte x = p.byte x) ∧
  (takesDigit c →
    q.byte a = (if d ≠ 0 ∨ p.sig = true then 0xF#4 ++ d else fill) ∧
    (q.nz = true ↔ p.nz = true ∨ d ≠ 0) ∧
    q.mark = (if d ≠ 0 ∧ p.sig = false then some a else p.mark) ∧
    (q.sig = true ↔ (p.sig = true ∨ d ≠ 0 ∨ c = 0x21) ∧
      ¬(p.left = true ∧ (right = 0xA ∨ right = 0xC ∨ right = 0xE ∨ right = 0xF))) ∧
    (p.left = true → right.toNat < 0xA → q.source = p.source ∧ q.left = false) ∧
    (p.left = false ∨ 0xA ≤ right.toNat → q.source = p.source + 1 ∧ q.left = true)) ∧
  (c = 0x22 →
    q.byte a = fill ∧ q.sig = false ∧ q.nz = false ∧ q.mark = p.mark ∧ q.source = p.source ∧ q.left = p.left) ∧
  (¬takesDigit c → c ≠ 0x22 →
    q.byte a = (if first = true ∨ p.sig = true then c else fill) ∧
    q.sig = p.sig ∧ q.nz = p.nz ∧ q.mark = p.mark ∧ q.source = p.source ∧ q.left = p.left)

/-- Nothing a step could deliver: no source of the queue after step (a) is enabled with a condition pending. -/
def nothingDeliverable (s : State) : Bool := !wouldDeliver s

end Sys2Proof.Machine
end

