-- ==== Sys2Proof/WellFormed.lean ====
section
/-! DEFINITION. Well-formed instructions: the checks on an instruction's own fields that the spec makes, whatever the
state holds. An ill-formed instruction still decodes and runs: it takes the specification exception its rule names (or,
for a rounding digit above 9, the unspecified outcome of spec/47_decimal_engine.md R478). Every other value of every
field is admitted, the fields a rule ignores included (R114). -/

namespace Sys2Proof

/-- The first register of an even-odd pair (spec/10_state.md R34). -/
def isEven (r : RegNum) : Bool := !r.getLsbD 0

/-- A floating-point register number: 0, 2, 4 or 6 (spec/45_hfp_engine.md R369). -/
def isFpReg (r : RegNum) : Bool := r == 0 || r == 2 || r == 4 || r == 6

/-- The length rule of MP and DP on length codes: at most 8 bytes, and shorter than the first operand
(spec/48_decimal_instructions.md R506, R507). -/
def shorterFactor (l1 l2 : RegNum) : Bool := decide (l2.toNat + 1 ≤ 8) && decide (l2.toNat < l1.toNat)

/-- A decimal digit: the rounding digit of SRP (spec/48_decimal_instructions.md R508). -/
def isDigit (d : BitVec 4) : Bool := decide (d.toNat ≤ 9)

/-- The fields of the instruction satisfy the spec's checks on them. -/
def Instr.wellFormed : Instr → Bool
  | .spm _ _ => true
  | .balr _ _ => true
  | .bctr _ _ => true
  | .bcr _ _ => true
  | .ssk _ _ => true
  | .isk _ _ => true
  | .svc _ => true
  | .basr _ _ => true
  | .mvcl r1 r2 => isEven r1 && isEven r2
  | .clcl r1 r2 => isEven r1 && isEven r2
  | .lpr _ _ => true
  | .lnr _ _ => true
  | .ltr _ _ => true
  | .lcr _ _ => true
  | .nr _ _ => true
  | .clr _ _ => true
  | .or _ _ => true
  | .xr _ _ => true
  | .lr _ _ => true
  | .cr _ _ => true
  | .ar _ _ => true
  | .sr _ _ => true
  | .mr r1 _ => isEven r1
  | .dr r1 _ => isEven r1
  | .alr _ _ => true
  | .slr _ _ => true
  | .lpdr r1 r2 => isFpReg r1 && isFpReg r2
  | .lndr r1 r2 => isFpReg r1 && isFpReg r2
  | .ltdr r1 r2 => isFpReg r1 && isFpReg r2
  | .lcdr r1 r2 => isFpReg r1 && isFpReg r2
  | .hdr r1 r2 => isFpReg r1 && isFpReg r2
  | .ldr r1 r2 => isFpReg r1 && isFpReg r2
  | .cdr r1 r2 => isFpReg r1 && isFpReg r2
  | .adr r1 r2 => isFpReg r1 && isFpReg r2
  | .sdr r1 r2 => isFpReg r1 && isFpReg r2
  | .mdr r1 r2 => isFpReg r1 && isFpReg r2
  | .ddr r1 r2 => isFpReg r1 && isFpReg r2
  | .awr r1 r2 => isFpReg r1 && isFpReg r2
  | .swr r1 r2 => isFpReg r1 && isFpReg r2
  | .lper r1 r2 => isFpReg r1 && isFpReg r2
  | .lner r1 r2 => isFpReg r1 && isFpReg r2
  | .lter r1 r2 => isFpReg r1 && isFpReg r2
  | .lcer r1 r2 => isFpReg r1 && isFpReg r2
  | .her r1 r2 => isFpReg r1 && isFpReg r2
  | .lrer r1 r2 => isFpReg r1 && isFpReg r2
  | .ler r1 r2 => isFpReg r1 && isFpReg r2
  | .cer r1 r2 => isFpReg r1 && isFpReg r2
  | .aer r1 r2 => isFpReg r1 && isFpReg r2
  | .ser r1 r2 => isFpReg r1 && isFpReg r2
  | .mer r1 r2 => isFpReg r1 && isFpReg r2
  | .der r1 r2 => isFpReg r1 && isFpReg r2
  | .aur r1 r2 => isFpReg r1 && isFpReg r2
  | .sur r1 r2 => isFpReg r1 && isFpReg r2
  | .sth _ _ _ _ => true
  | .la _ _ _ _ => true
  | .stc _ _ _ _ => true
  | .ic _ _ _ _ => true
  | .ex _ _ _ _ => true
  | .bal _ _ _ _ => true
  | .bct _ _ _ _ => true
  | .bc _ _ _ _ => true
  | .lh _ _ _ _ => true
  | .ch _ _ _ _ => true
  | .ah _ _ _ _ => true
  | .sh _ _ _ _ => true
  | .mh _ _ _ _ => true
  | .bas _ _ _ _ => true
  | .cvd _ _ _ _ => true
  | .cvb _ _ _ _ => true
  | .st _ _ _ _ => true
  | .n _ _ _ _ => true
  | .cl _ _ _ _ => true
  | .o _ _ _ _ => true
  | .x _ _ _ _ => true
  | .l _ _ _ _ => true
  | .c _ _ _ _ => true
  | .a _ _ _ _ => true
  | .s _ _ _ _ => true
  | .m r1 _ _ _ => isEven r1
  | .d r1 _ _ _ => isEven r1
  | .al _ _ _ _ => true
  | .sl _ _ _ _ => true
  | .std r1 _ _ _ => isFpReg r1
  | .ld r1 _ _ _ => isFpReg r1
  | .cd r1 _ _ _ => isFpReg r1
  | .ad r1 _ _ _ => isFpReg r1
  | .sd r1 _ _ _ => isFpReg r1
  | .md r1 _ _ _ => isFpReg r1
  | .dd r1 _ _ _ => isFpReg r1
  | .aw r1 _ _ _ => isFpReg r1
  | .sw r1 _ _ _ => isFpReg r1
  | .ste r1 _ _ _ => isFpReg r1
  | .le r1 _ _ _ => isFpReg r1
  | .ce r1 _ _ _ => isFpReg r1
  | .ae r1 _ _ _ => isFpReg r1
  | .se r1 _ _ _ => isFpReg r1
  | .me r1 _ _ _ => isFpReg r1
  | .de r1 _ _ _ => isFpReg r1
  | .au r1 _ _ _ => isFpReg r1
  | .su r1 _ _ _ => isFpReg r1
  | .ssm _ _ _ => true
  | .lpsw _ _ _ => true
  | .diag _ _ _ _ => true
  | .bxh _ _ _ _ => true
  | .bxle _ _ _ _ => true
  | .srl _ _ _ _ => true
  | .sll _ _ _ _ => true
  | .sra _ _ _ _ => true
  | .sla _ _ _ _ => true
  | .srdl r1 _ _ _ => isEven r1
  | .sldl r1 _ _ _ => isEven r1
  | .srda r1 _ _ _ => isEven r1
  | .slda r1 _ _ _ => isEven r1
  | .stm _ _ _ _ => true
  | .tm _ _ _ => true
  | .mvi _ _ _ => true
  | .ts _ _ _ => true
  | .ni _ _ _ => true
  | .cli _ _ _ => true
  | .oi _ _ _ => true
  | .xi _ _ _ => true
  | .lm _ _ _ _ => true
  | .sio _ _ _ => true
  | .siof _ _ _ => true
  | .tio _ _ _ => true
  | .hio _ _ _ => true
  | .hdv _ _ _ => true
  | .tch _ _ _ => true
  | .stnsm _ _ _ => true
  | .stosm _ _ _ => true
  | .stck _ _ => true
  | .sckc _ _ => true
  | .stckc _ _ => true
  | .ptlb _ _ => true
  | .spx _ _ => true
  | .stpx _ _ => true
  | .stap _ _ => true
  | .stctl _ _ _ _ => true
  | .lctl _ _ _ _ => true
  | .cs _ _ _ _ => true
  | .cds r1 r3 _ _ => isEven r1 && isEven r3
  | .clm _ _ _ _ => true
  | .stcm _ _ _ _ => true
  | .icm _ _ _ _ => true
  | .mvn _ _ _ _ _ => true
  | .mvc _ _ _ _ _ => true
  | .mvz _ _ _ _ _ => true
  | .nc _ _ _ _ _ => true
  | .clc _ _ _ _ _ => true
  | .oc _ _ _ _ _ => true
  | .xc _ _ _ _ _ => true
  | .tr _ _ _ _ _ => true
  | .trt _ _ _ _ _ => true
  | .ed _ _ _ _ _ => true
  | .edmk _ _ _ _ _ => true
  | .srp _ i3 _ _ _ _ => isDigit i3
  | .mvo _ _ _ _ _ _ => true
  | .pack _ _ _ _ _ _ => true
  | .unpk _ _ _ _ _ _ => true
  | .zap _ _ _ _ _ _ => true
  | .cp _ _ _ _ _ _ => true
  | .ap _ _ _ _ _ _ => true
  | .sp _ _ _ _ _ _ => true
  | .mp l1 l2 _ _ _ _ => shorterFactor l1 l2
  | .dp l1 l2 _ _ _ _ => shorterFactor l1 l2

end Sys2Proof
end

