-- ==== Sys2Proof/Certificates/Slice0/Obligations.lean ====
section
/-! DEFINITION. The statements for the provers. `exec i s` is stated on the state `s` that the rule of `i` starts from:
`pc` and the ILC already advanced (spec/40_decode_execute.md R144). `Obligations.StepRunsDecodedInstruction` says how a
step reaches it. What an `execute` call returns is the model's field `result` (the model's choice, log 4); that a field no
rule writes keeps its value is said of the hand-off record too (log 3). -/

open Sys2Proof Sys2Proof.Machine

/-! ## Encoding and decoding -/

/-- Decoding the bytes of any instruction, whatever follows them, gives that instruction and what follows
(R100 to R111). -/
def Obligations.DecodeInvertsEncode : Prop :=
  ∀ (i : Instr) (rest : List Byte), decode (encode i ++ rest) = .ok (i, rest)

/-- Bytes that decode are the encoding of the instruction read: no bit of an instruction is dropped
(R100 to R111). -/
def Obligations.EncodeInvertsDecode : Prop :=
  ∀ (bs rest : List Byte) (i : Instr), decode bs = .ok (i, rest) → bs = encode i ++ rest

/-- Words of the spec's examples decode to the instructions they stand for. -/
def Obligations.SampleWordsDecode : Prop :=
  decode [0x18, 0x12] = .ok (.lr 1 2, []) ∧
  decode [0x5A, 0x10, 0x10, 0x00] = .ok (.a 1 0 1 0, []) ∧
  decode [0x44, 0x10, 0x02, 0x00] = .ok (.ex 1 0 0 0x200, []) ∧
  decode [0x90, 0xEC, 0xD0, 0x0C] = .ok (.stm 14 12 13 12, []) ∧
  decode [0xD2, 0x03, 0x10, 0x01, 0x10, 0x00] = .ok (.mvc 3 1 1 1 0, []) ∧
  decode [0xF8, 0x12, 0x10, 0x00, 0x20, 0x00] = .ok (.zap 1 2 1 0 2 0, []) ∧
  decode [0x82, 0x00, 0x01, 0x00] = .ok (.lpsw 0 0 0x100, []) ∧
  decode [0x9C, 0x01, 0x00, 0x0C] = .ok (.siof 0 0 0x00C, []) ∧
  decode [0x0A, 0x03] = .ok (.svc 3, [])

/-! ## Invariants and reset -/

/-- Every step keeps main memory and the key array in canonical form, which is the model's representation of the byte
arrays (the model's choice, log 2). -/
def Obligations.StepKeepsMemoryCanonical : Prop :=
  ∀ s t : State, memoryCanonical s = true → step s = .next t → memoryCanonical t = true

/-- Every step keeps every floating-point register at a FloatValue of R362 with an exponent of R379: a zero canonical,
a nonzero value with a nonzero leading digit and an exponent from −77 to 63 (that a register is data that could lie
outside them is the model's choice, log 19). -/
def Obligations.StepKeepsFloatRange : Prop :=
  ∀ s t : State, s.fpr.wf = true → step s = .next t → t.fpr.wf = true

/-- Every step keeps the interrupt queue free of repetitions (R38, R577 d) and leaves the EX-target flag clear
(R43). -/
def Obligations.StepKeepsControlCanonical : Prop :=
  ∀ s t : State, controlCanonical s = true → step s = .next t → controlCanonical t = true

/-- The three invariants hold right after reset, whatever the open `initMem` is: for the state `State.reset`, whose memory
is the model's choice (log 2), and for the reset with any contents of memory and keys in canonical form. -/
def Obligations.ResetMeetsInvariants : Prop :=
  ∀ initMem initKeys : Memory, Memory.wf memorySize initMem = true → Memory.wf keyCount initKeys = true →
    ∀ s ∈ [State.reset, State.resetWith initMem initKeys],
      memoryCanonical s = true ∧ s.fpr.wf = true ∧ controlCanonical s = true

/-- What the spec gives for reset: everything of the processor zero, the floating-point registers positive true zero,
the queue empty, the CPU running with every interruption masked and `pc` zero, memory and keys the open parameter
`initMem`, any contents (R46). The hand-off record, which R46 leaves unspecified, is not spoken of. -/
def Obligations.ResetValues : Prop :=
  ∀ initMem initKeys : Memory,
  (∀ a, readByte (State.resetWith initMem initKeys) a = Memory.read initMem a.toNat) ∧
  (∀ p, readKey (State.resetWith initMem initKeys) p = Memory.read initKeys p.toNat) ∧
  ∀ s ∈ [State.reset, State.resetWith initMem initKeys],
  s.psw.pc = 0 ∧ s.psw.cc = 0 ∧ s.psw.pm = 0 ∧ s.psw.sm = 0 ∧ s.psw.key = 0 ∧ s.psw.m = false ∧ s.psw.w = false ∧
  s.psw.ic = 0 ∧ s.psw.ilc = 0 ∧ s.psw.p = true ∧ (∀ r, getReg s r = 0) ∧
  (∀ f, getFpr s f = { z := true, pos := true, F := 0, e := -64 }) ∧
  s.queue = [] ∧ s.sinceIrq = 0 ∧ s.timerPending = false ∧ s.lastClock = 0 ∧ s.exTarget = false ∧ s.halt = false ∧
  isRunning s = true

/-- No state ends a run: every step, and every instruction in every state, answers a next state. Every abnormal event
of R540 is one, which is the model's choice where the event ends the call (log 4). -/
def Obligations.EveryStepAnswersNext : Prop :=
  (∀ s : State, ∃ t, step s = .next t) ∧ (∀ (i : Instr) (s : State), ∃ t, exec i s = .next t)

/-! ## The step -/

/-- A step that is not halted and, after the boundary check, neither ended by a failed PSW load nor waiting, with an
even `pc` at which an instruction decodes, runs that instruction on the state advanced past it, and counts it
(R142 to R147). -/
def Obligations.StepRunsDecodedInstruction : Prop :=
  ∀ (s : State) (i : Instr) (rest : List Byte),
    let b := boundaryCheck (setResult s .budget)
    s.halt = false → b.result = .budget → b.psw.w = false → b.psw.pc.getLsbD 0 = false →
    decode (readField b b.psw.pc 6) = .ok (i, rest) →
    let n := (encode i).length
    let u := { b with psw := { b.psw with ilc := BitVec.ofNat 2 (n / 2), pc := b.psw.pc + BitVec.ofNat 24 n } }
    ∃ t, exec i u = .next t ∧ step s = .next { t with sinceIrq := t.sinceIrq + 1 }

/-- A step that executes no instruction: halted, it changes nothing (R150); waiting after the boundary check, it
returns `EnabledWait` (R151); with an odd `pc` it takes the specification interruption with nothing fetched and the
ILC as it was, and counts (R74, R143). That the returned value is the field `result` of the state is the model's choice
(log 4). -/
def Obligations.StepWithoutInstruction : Prop :=
  ∀ s : State,
    let b := boundaryCheck (setResult s .budget)
    (s.halt = true → step s = .next { s with result := .budget }) ∧
    (s.halt = false → b.result = .budget → b.psw.w = true → step s = .next { b with result := .enabledWait }) ∧
    (s.halt = false → b.result = .budget → b.psw.w = false → b.psw.pc.getLsbD 0 = true →
      let t := programInterrupt b .specification
      step s = .next { t with sinceIrq := t.sinceIrq + 1 })

/-- An encoding with no row is handed to the host (R112, R148): `pc` and the ILC advanced, the record written, the
result of the kind of its first bytes, nothing else changed but the instruction count. -/
def Obligations.NoRowIsHandedOff : Prop :=
  ∀ (s : State) (e : Reject),
    let b := boundaryCheck (setResult s .budget)
    let b0 := readByte b b.psw.pc
    let b1 := readByte b (b.psw.pc + 1)
    let b2 := readByte b (b.psw.pc + 2)
    let b3 := readByte b (b.psw.pc + 3)
    let n := if b0.toNat < 0x40 then 2 else if b0.toNat < 0xC0 then 4 else 6
    s.halt = false → b.result = .budget → b.psw.w = false → b.psw.pc.getLsbD 0 = false →
    decode (readField b b.psw.pc 6) = .error e →
    step s = .next { b with
      psw := { b.psw with ilc := BitVec.ofNat 2 (n / 2), pc := b.psw.pc + BitVec.ofNat 24 n }
      record := { ra := b1.extractLsb' 4 4, rb := b1.extractLsb' 0 4, imm := b1
                  addr := ea b (b2.extractLsb' 4 4) (b2.extractLsb' 0 4 ++ b3), insn := b0 ++ b1 ++ b2 ++ b3 }
      result :=
        if b0 = 0x9C ∨ b0 = 0x9D ∨ b0 = 0x9E ∨ b0 = 0x9F then .sentinel .io (0#16 ++ b0 ++ b1)
        else if b0 = 0xB2 then .sentinel .priv (0#16 ++ b0 ++ b1)
        else .unknownInstruction
      sinceIrq := b.sinceIrq + 1 }

/-- The boundary check (R571 to R577). A queue without repetitions stays so; after a check that no failed PSW load
ended, every queued source has a condition pending; and either no interruption is delivered, the PSW, memory and the
counter unchanged, or one is, of a queued source with a condition pending whose mask bit is 1, once the dead time is
over or the CPU waits. With nothing newly pending and no queued source both enabled and pending, the check only drops
idle sources. What it delivers: every source newly pending asynchronously goes to the end of the queue, in the order of
the list; where the dead time is over or the CPU waits, the first source of the queue that is pending with its mask bit 1
(bit 7 − n of channel n from 0 to 5, bit 1 of the others, bit 0 of the timer) is delivered, an asynchronous condition
before a completion, that flag alone cleared; the counter starts again once the new PSW is loaded. The devices, what their
delivery does and what a new PSW that does not load leaves are the model's choice (logs 10, 11, 12). -/
def Obligations.BoundaryCheckIsSafe : Prop :=
  (∀ s : State, s.result = .budget → s.timerPending = false → (∀ d ∈ s.devices, d.async = false) →
    (∀ src ∈ s.queue, (s.psw.sm.getLsbD (maskBit s src) && isPending s src) = false) →
    boundaryCheck s = { s with queue := s.queue.filter (isPending s) }) ∧
  (∀ s : State, s.result = .budget → s.queue.Nodup →
    let q := enqueueAsync s
    let t := boundaryCheck s
    t.queue.Nodup ∧ (t.result = .budget → ∀ src ∈ t.queue, isPending t src = true) ∧
    ((t.psw = s.psw ∧ t.mem = s.mem ∧ t.sinceIrq = s.sinceIrq) ∨
      ∃ src ∈ q.queue, isPending s src = true ∧ s.psw.sm.getLsbD (maskBit s src) = true ∧
        (s.psw.w = true ∨ Config.insnsBeforeInterrupt ≤ s.sinceIrq) ∧
        t.psw = (initiateSource q src).psw ∧ t.mem = (initiateSource q src).mem)) ∧
  ∀ s : State, s.result = .budget →
    let flag (f : Device → Bool) (u : State) (src : SourceId) : Bool :=
      match src with
      | .timer => false
      | .device n => (u.devices[n]?).any f
    let async (u : State) (src : SourceId) : Bool := (decide (src = .timer) && u.timerPending) || flag (·.async) u src
    let pending (u : State) (src : SourceId) : Bool := async u src || flag (·.completion) u src
    let bit (src : SourceId) : Nat :=
      match src with
      | .timer => 0
      | .device n => ((s.devices[n]?).map fun d => if d.channel ≤ 5 then 7 - d.channel else 1).getD 1
    let ready (src : SourceId) : Bool := s.psw.sm.getLsbD (bit src) && pending s src
    let listed : List SourceId := .timer :: (List.range s.devices.length).map .device
    let queue := s.queue ++ listed.filter fun src => async s src && decide (src ∉ s.queue)
    let due : Prop := s.psw.w = true ∨ Config.insnsBeforeInterrupt ≤ s.sinceIrq
    let t := boundaryCheck s
    let delivers (v : State) : Prop :=
      t = if v.result = .budget then { v with sinceIrq := 0, queue := queue.filter (pending v) } else v
    ((∀ src ∈ queue, ready src = false) ∨ ¬due → t = { s with queue := queue.filter (pending s) }) ∧
    ∀ (before later : List SourceId) (src : SourceId), queue = before ++ src :: later →
      (∀ x ∈ before, ready x = false) → ready src = true → due →
      (src = .timer → delivers (initiate { s with queue := queue, timerPending := false } 24 88 0x0080)) ∧
      ∀ (n : Nat) (d : Device), src = .device n → s.devices[n]? = some d →
        let d' := if d.async then { d with async := false } else { d with completion := false }
        let u := { s with queue := queue, devices := s.devices.set n d', statusDraws := s.statusDraws + 1 }
        delivers (initiate (write64 u 64 (Config.channelStatus s.statusDraws)) 56 120 d.address)

/-- A call of `execute` (R141, R142, R150): with no budget, or halted, it returns `Budget` with nothing done; else it runs
one step after another until one ends the call or the budget is used up. -/
def Obligations.ExecuteRunsSteps : Prop :=
  ∀ (s : State) (n : Nat),
    execute 0 s = .next { s with result := .budget } ∧
    (s.halt = true → execute n s = .next { s with result := .budget }) ∧
    ∃ t, step s = .next t ∧ execute (n + 1) s = if t.result = .budget then execute n t else .next t

/-! ## Taking an interruption and returning from it -/

/-- Interrupt initiation for the classes the block has, any code (R551): the PSW with the code goes to the old
location, the new PSW is loaded field by field (R30 to R32), nothing else changes. A new PSW with the EC bit is refused
with the PSW unchanged but for the code, and one that waits with the mask zero is loaded; both end the call (R560). -/
def Obligations.InterruptionSwapsPsw : Prop :=
  ∀ (s : State) (code : BitVec 16), memoryCanonical s = true →
    ∀ p ∈ [((24 : Addr), (88 : Addr)), (32, 96), (40, 104), (56, 120)],
      let t := initiate s p.1 p.2 code
      let u := pswAt s p.2 s.psw.ilc
      read64 t p.1 =
        s.psw.sm ++ s.psw.key ++ 0#1 ++ BitVec.ofBool s.psw.m ++ BitVec.ofBool s.psw.w ++ 1#1 ++ code ++ s.psw.ilc ++
          s.psw.cc ++ s.psw.pm ++ s.psw.pc ∧
      SameOutside s t p.1 8 ∧ SameRegsBut [] s t ∧ SameFprsBut [] s t ∧
      SameControl { s with result := t.result } t ∧
      ((readByte s (p.2 + 1)).getLsbD 3 = true →
        t.psw = { s.psw with ic := code } ∧ t.result = .pswLoadFault .unsupportedMode) ∧
      ((readByte s (p.2 + 1)).getLsbD 3 = false →
        t.psw = u ∧ t.result = if u.w = true ∧ u.sm = 0 then .pswLoadFault .disabledWait else s.result)

/-- The program interruption (R541, R550): the program pair of locations, and the code of each condition. -/
def Obligations.ProgramInterruptionCodes : Prop :=
  ∀ s : State, ∀ p ∈ [(ProgramException.operation, (0x0001 : BitVec 16)), (.privilege, 0x0002), (.execute, 0x0003),
      (.addressing, 0x0005), (.specification, 0x0006), (.fixedPointOverflow, 0x0008), (.fixedPointDivide, 0x0009),
      (.decimalOverflow, 0x000A), (.decimalDivide, 0x000B), (.exponentOverflow, 0x000C),
      (.exponentUnderflow, 0x000D), (.significance, 0x000E), (.floatDivide, 0x000F)],
    programInterrupt s p.1 = initiate s 40 104 p.2

/-- The result of an instruction (R146): the condition code first; then nothing more without an exception, or with a
masked fixed-point or decimal overflow; else the program interruption. -/
def Obligations.PostProcessingRule : Prop :=
  ∀ (s : State) (cc : Option CC) (exc : Option ProgramException),
    let u : State := { s with psw := { s.psw with cc := cc.getD s.psw.cc } }
    finish ⟨s, cc, exc⟩ = .next (match exc with
      | none => u
      | some .fixedPointOverflow => if s.psw.pm.getLsbD 3 then programInterrupt u .fixedPointOverflow else u
      | some .decimalOverflow => if s.psw.pm.getLsbD 2 then programInterrupt u .decimalOverflow else u
      | some e => programInterrupt u e)

/-- Storing the PSW at any address and loading it from there gives it back but for the interruption code, and an image
without the EC bit, loaded and stored again, comes back but for its code, its ILC and its problem bit
(R30 to R32). -/
def Obligations.PswImageRoundTrip : Prop :=
  (∀ (s : State) (a : Addr), memoryCanonical s = true → (s.psw.w = false ∨ s.psw.sm ≠ 0) →
    (loadPsw (storePsw s a) a).psw = { s.psw with ic := 0 } ∧ (loadPsw (storePsw s a) a).result = s.result) ∧
  (∀ (s : State) (img : DWord), img.getLsbD 51 = false →
    pswImage (loadPswImage s img).psw =
      img.extractLsb' 49 15 ++ 1#1 ++ 0#16 ++ s.psw.ilc ++ img.extractLsb' 0 30)

/-- LPSW (R171): from a doubleword boundary it loads the PSW and changes nothing else; the ILC stays. It is the return
from an interruption (R552): after an interruption to a PSW, LPSW of the old location restores every field but the
code and the ILC. An image with the EC bit leaves the PSW as it was, one that waits with the mask zero is loaded, and each
ends the call with its PSW-load failure (R560), the returned value being the field `result` (log 4). -/
def Obligations.LpswLoadsAndReturns : Prop :=
  ∀ (s : State) (i2 : Byte) (b1 : RegNum) (d1 : Disp),
    let a := ea s b1 d1
    a.toNat % 8 = 0 →
    (pswLoads s a →
      Gives (.lpsw i2 b1 d1) s fun t => t.psw = pswAt s a s.psw.ilc ∧ Frame [] [] s t ∧ SameMemory s t) ∧
    (∀ (r : State) (code : BitVec 16) (new : Addr), memoryCanonical r = true → (r.psw.w = false ∨ r.psw.sm ≠ 0) →
      s = initiate r a new code →
      Gives (.lpsw i2 b1 d1) s fun t => t.psw = { r.psw with ic := 0, ilc := s.psw.ilc }) ∧
    ((readByte s (a + 1)).getLsbD 3 = true →
      exec (.lpsw i2 b1 d1) s = .next { s with result := .pswLoadFault .unsupportedMode }) ∧
    ((readByte s (a + 1)).getLsbD 3 = false → (readByte s (a + 1)).getLsbD 1 = true → readByte s a = 0 →
      exec (.lpsw i2 b1 d1) s =
        .next { s with psw := pswAt s a s.psw.ilc, result := .pswLoadFault .disabledWait })

/-- SVC (R175): the supervisor-call interruption with the immediate as its code: the old PSW stored, the new one loaded. A
new PSW with the EC bit leaves the PSW as it was but for the code, one that waits with the mask zero is loaded, and each
ends the call with its PSW-load failure, the old PSW stored (R560), the returned value being the field `result`
(log 4). -/
def Obligations.SupervisorCall : Prop :=
  ∀ (s : State) (i : Byte), memoryCanonical s = true →
    let swaps (t : State) (p : PSW) : Prop :=
      t.psw = p ∧ SameOutside s t 32 8 ∧ Frame [] [] { s with result := t.result } t ∧
      read64 t 32 =
        s.psw.sm ++ s.psw.key ++ 0#1 ++ BitVec.ofBool s.psw.m ++ BitVec.ofBool s.psw.w ++ 1#1 ++ 0#8 ++ i ++
          s.psw.ilc ++ s.psw.cc ++ s.psw.pm ++ s.psw.pc
    (pswLoads s 96 → Gives (.svc i) s fun t => swaps t (pswAt s 96 s.psw.ilc) ∧ t.result = s.result) ∧
    ((readByte s 97).getLsbD 3 = true → Gives (.svc i) s fun t =>
      swaps t { s.psw with ic := 0#8 ++ i } ∧ t.result = .pswLoadFault .unsupportedMode) ∧
    ((readByte s 97).getLsbD 3 = false → (readByte s 97).getLsbD 1 = true → readByte s 96 = 0 →
      Gives (.svc i) s fun t => swaps t (pswAt s 96 s.psw.ilc) ∧ t.result = .pswLoadFault .disabledWait)

/-- Where instructions raise the specification exception before anything else (R34, R75, R369, R506, R507): an odd
register where a pair is required, a floating-point register number other than 0, 2, 4, 6, a misaligned operand of
LPSW, CS and CDS, and the lengths of MP and DP. -/
def Obligations.SpecificationTraps : Prop :=
  ∀ (s : State) (r1 r2 x2 b1 b2 l1 l2 : RegNum) (d1 d2 : Disp) (i2 : Byte),
    (r1.getLsbD 0 = true → ∀ i ∈ [Instr.mr r1 r2, .m r1 x2 b2 d2, .dr r1 r2, .d r1 x2 b2 d2, .slda r1 r2 b2 d2,
      .srda r1 r2 b2 d2, .sldl r1 r2 b2 d2, .srdl r1 r2 b2 d2, .mvcl r1 r2, .clcl r1 r2, .cds r1 r2 b2 d2],
      Traps i s .specification) ∧
    (r2.getLsbD 0 = true → ∀ i ∈ [Instr.mvcl r1 r2, .clcl r1 r2, .cds r1 r2 b2 d2], Traps i s .specification) ∧
    (fregOf r1 = none → ∀ i ∈ [Instr.std r1 x2 b2 d2, .ld r1 x2 b2 d2, .cd r1 x2 b2 d2, .ad r1 x2 b2 d2,
      .sd r1 x2 b2 d2, .md r1 x2 b2 d2, .dd r1 x2 b2 d2, .aw r1 x2 b2 d2, .sw r1 x2 b2 d2, .ste r1 x2 b2 d2,
      .le r1 x2 b2 d2, .ce r1 x2 b2 d2, .ae r1 x2 b2 d2, .se r1 x2 b2 d2, .me r1 x2 b2 d2, .de r1 x2 b2 d2,
      .au r1 x2 b2 d2, .su r1 x2 b2 d2], Traps i s .specification) ∧
    (fregOf r1 = none ∨ fregOf r2 = none → ∀ i ∈ [Instr.lpdr r1 r2, .lndr r1 r2, .ltdr r1 r2, .lcdr r1 r2,
      .hdr r1 r2, .ldr r1 r2, .cdr r1 r2, .adr r1 r2, .sdr r1 r2, .mdr r1 r2, .ddr r1 r2, .awr r1 r2, .swr r1 r2,
      .lper r1 r2, .lner r1 r2, .lter r1 r2, .lcer r1 r2, .her r1 r2, .lrer r1 r2, .ler r1 r2, .cer r1 r2, .aer r1 r2,
      .ser r1 r2, .mer r1 r2, .der r1 r2, .aur r1 r2, .sur r1 r2], Traps i s .specification) ∧
    ((ea s b1 d1).toNat % 8 ≠ 0 → Traps (.lpsw i2 b1 d1) s .specification) ∧
    ((ea s b2 d2).toNat % 4 ≠ 0 → Traps (.cs r1 r2 b2 d2) s .specification) ∧
    ((ea s b2 d2).toNat % 8 ≠ 0 → Traps (.cds r1 r2 b2 d2) s .specification) ∧
    (8 ≤ l2.toNat ∨ l1.toNat ≤ l2.toNat →
      Traps (.mp l1 l2 b1 d1 b2 d2) s .specification ∧ Traps (.dp l1 l2 b1 d1 b2 d2) s .specification)

/-! ## Memory access and plain moves -/

/-- Wide accesses are big-endian and wrap byte by byte (R8, R71 to R73): reads are the concatenation of the bytes, and
a stored word is read back byte by byte, with every other byte as it was. -/
def Obligations.WideAccessIsBigEndian : Prop :=
  ∀ (s : State) (a : Addr) (v : Word),
    read16 s a = readByte s a ++ readByte s (a + 1) ∧
    read32 s a = readByte s a ++ readByte s (a + 1) ++ readByte s (a + 2) ++ readByte s (a + 3) ∧
    read64 s a = read32 s a ++ read32 s (a + 4) ∧
    (memoryCanonical s = true →
      let t := write32 s a v
      readByte t a = v.extractLsb' 24 8 ∧ readByte t (a + 1) = v.extractLsb' 16 8 ∧
      readByte t (a + 2) = v.extractLsb' 8 8 ∧ readByte t (a + 3) = v.extractLsb' 0 8 ∧ SameOutside s t a 4)

/-- LR, L, LH, LA, IC (R201 to R204, R299): the register written, everything else as it was. ICM (R301): the selected
bytes of the register become the bytes of storage in order, the others stay, and the condition code tells the inserted
bits. LA loads the address of R10, which is the address of every operand: the displacement and the low 24 bits of the base
and the index register, register 0 giving nothing, added modulo 2^24. -/
def Obligations.RegisterLoads : Prop :=
  ∀ (s : State) (r1 r2 x2 b2 m3 : RegNum) (d2 : Disp),
    let a := eax s x2 b2 d2
    let old := getReg s r1
    let bs := readField s (ea s b2 d2) (selectedBytes m3 old).length
    let part (r : RegNum) : Nat := if r = 0 then 0 else (getReg s r).toNat % 2 ^ 24
    (ea s b2 d2).toNat = (part b2 + d2.toNat) % 2 ^ 24 ∧
    (eax s x2 b2 d2).toNat = (part x2 + part b2 + d2.toNat) % 2 ^ 24 ∧
    SetsReg (.lr r1 r2) s r1 (getReg s r2) ∧
    SetsReg (.l r1 x2 b2 d2) s r1 (readByte s a ++ readByte s (a + 1) ++ readByte s (a + 2) ++ readByte s (a + 3)) ∧
    SetsReg (.lh r1 x2 b2 d2) s r1 ((readByte s a ++ readByte s (a + 1)).signExtend 32) ∧
    SetsReg (.la r1 x2 b2 d2) s r1 (BitVec.ofNat 32 ((part x2 + part b2 + d2.toNat) % 2 ^ 24)) ∧
    SetsReg (.ic r1 x2 b2 d2) s r1 (old.extractLsb' 8 24 ++ readByte s a) ∧
    ∃ v : Word, selectedBytes m3 v = bs ∧ selectedBytes (~~~m3) v = selectedBytes (~~~m3) old ∧
      SetsRegCc (.icm r1 m3 b2 d2) s r1 v (if bytesValue bs = 0 then 0 else if (bs.headD 0).msb then 1 else 2)

/-- ST, STH, STC, STCM, MVI (R210, R211, R300, R302, R303): the bytes stored, everything else as it was. -/
def Obligations.RegisterStores : Prop :=
  ∀ (s : State) (r1 x2 b2 m3 b1 : RegNum) (d2 d1 : Disp) (i2 : Byte), memoryCanonical s = true →
    let v := getReg s r1
    Stores (.st r1 x2 b2 d2) s (eax s x2 b2 d2)
      [v.extractLsb' 24 8, v.extractLsb' 16 8, v.extractLsb' 8 8, v.extractLsb' 0 8] ∧
    Stores (.sth r1 x2 b2 d2) s (eax s x2 b2 d2) [v.extractLsb' 8 8, v.extractLsb' 0 8] ∧
    Stores (.stc r1 x2 b2 d2) s (eax s x2 b2 d2) [v.extractLsb' 0 8] ∧
    Stores (.stcm r1 m3 b2 d2) s (ea s b2 d2) (selectedBytes m3 v) ∧
    Stores (.mvi i2 b1 d1) s (ea s b1 d1) [i2]

/-- LM and STM (R209, R212): the registers from `r1` up to `r3`, wrapping from 15 to 0, and the words from the address
up, the address formed first. -/
def Obligations.MultipleRegisters : Prop :=
  ∀ (s : State) (r1 r3 b2 : RegNum) (d2 : Disp),
    let a := ea s b2 d2
    let n := (r3 - r1).toNat
    Gives (.lm r1 r3 b2 d2) s (fun t =>
      (∀ k ≤ n, getReg t (r1 + BitVec.ofNat 4 k) = read32 s (a + BitVec.ofNat 24 (4 * k))) ∧
      (∀ r : RegNum, n < (r - r1).toNat → getReg t r = getReg s r) ∧
      t.psw = s.psw ∧ SameFprsBut [] s t ∧ SameControl s t ∧ SameMemory s t) ∧
    (memoryCanonical s = true → Gives (.stm r1 r3 b2 d2) s fun t =>
      (∀ k ≤ n, read32 t (a + BitVec.ofNat 24 (4 * k)) = getReg s (r1 + BitVec.ofNat 4 k)) ∧
      SameOutside s t a (4 * (n + 1)) ∧ t.psw = s.psw ∧ Frame [] [] s t)

/-! ## Fixed-point arithmetic -/

/-- AR, A, AH, SR, S, SH, LCR, LPR, LNR, LTR with a result that fits in 32 bits (R200 a, R205 to R208,
R213 to R218): the exact result, and its sign as the condition code. -/
def Obligations.SignedResultInRange : Prop :=
  ∀ (s : State) (r1 r2 x2 b2 : RegNum) (d2 : Disp),
    let x := (getReg s r1).toInt
    let y := (getReg s r2).toInt
    let w := (read32 s (eax s x2 b2 d2)).toInt
    let h := (read16 s (eax s x2 b2 d2)).toInt
    ∀ p ∈ [(Instr.ar r1 r2, x + y), (.a r1 x2 b2 d2, x + w), (.ah r1 x2 b2 d2, x + h), (.sr r1 r2, x - y),
        (.s r1 x2 b2 d2, x - w), (.sh r1 x2 b2 d2, x - h), (.lcr r1 r2, -y), (.lpr r1 r2, |y|), (.lnr r1 r2, -|y|),
        (.ltr r1 r2, y)],
      fitsWord p.2 → ∃ v : Word, v.toInt = p.2 ∧ SetsRegCc p.1 s r1 v (signCode p.2)

/-- The same but LNR and LTR with a result that does not fit (R200 a, b, R544): the wrapped value and condition code 3
in every case, and the interruption if and only if the mask bit is 1. -/
def Obligations.SignedOverflow : Prop :=
  ∀ (s : State) (r1 r2 x2 b2 : RegNum) (d2 : Disp),
    let x := (getReg s r1).toInt
    let y := (getReg s r2).toInt
    let w := (read32 s (eax s x2 b2 d2)).toInt
    let h := (read16 s (eax s x2 b2 d2)).toInt
    ∀ p ∈ [(Instr.ar r1 r2, x + y), (.a r1 x2 b2 d2, x + w), (.ah r1 x2 b2 d2, x + h), (.sr r1 r2, x - y),
        (.s r1 x2 b2 d2, x - w), (.sh r1 x2 b2 d2, x - h), (.lcr r1 r2, -y), (.lpr r1 r2, |y|)],
      ¬fitsWord p.2 →
      ∃ v : Word, (v.toInt - p.2) % 2 ^ 32 = 0 ∧
        (s.psw.pm.getLsbD 3 = false → SetsRegCc p.1 s r1 v 3) ∧
        (s.psw.pm.getLsbD 3 = true →
          exec p.1 s = .next (programInterrupt (setCc (setReg s r1 v) 3) .fixedPointOverflow))

/-- ALR, AL, SLR, SL (R200 c, R219 to R222): the sum with its carry and zero code, never an exception; the difference,
whose code is the open parameter `SL_CC` of the operands, any function of them. -/
def Obligations.LogicalAddSubtract : Prop :=
  ∀ (s : State) (r1 r2 x2 b2 : RegNum) (d2 : Disp),
    let x := getReg s r1
    let carryCode (y : Word) : CC :=
      if x.toNat + y.toNat < 2 ^ 32 then (if x + y = 0 then 0 else 1) else (if x + y = 0 then 2 else 3)
    let y := getReg s r2
    let w := read32 s (eax s x2 b2 d2)
    SetsRegCc (.alr r1 r2) s r1 (x + y) (carryCode y) ∧ SetsRegCc (.al r1 x2 b2 d2) s r1 (x + w) (carryCode w) ∧
    SetsRegCc (.slr r1 r2) s r1 (x - y) (Config.slCc x y) ∧
    SetsRegCc (.sl r1 x2 b2 d2) s r1 (x - w) (Config.slCc x w)

/-- MR, M, MH (R223 to R225): the exact 64-bit product of the odd register of an even-odd pair, and the low half of the
halfword product. -/
def Obligations.MultiplyProducts : Prop :=
  ∀ (s : State) (r1 r2 x2 b2 : RegNum) (d2 : Disp),
    let w := read32 s (eax s x2 b2 d2)
    let h := read16 s (eax s x2 b2 d2)
    (isEven r1 = true → ∃ v : DWord, v.toInt = (getReg s (r1 + 1)).toInt * (getReg s r2).toInt ∧
      SetsPair (.mr r1 r2) s r1 v) ∧
    (isEven r1 = true → ∃ v : DWord, v.toInt = (getReg s (r1 + 1)).toInt * w.toInt ∧
      SetsPair (.m r1 x2 b2 d2) s r1 v) ∧
    SetsReg (.mh r1 x2 b2 d2) s r1 (BitVec.ofInt 32 ((getReg s r1).toInt * h.toInt))

/-- DR and D (R226, R227): with a nonzero divisor and a quotient that fits, the remainder and the quotient, the
remainder smaller than the divisor and of the dividend's sign; else the fixed-point-divide exception with the
registers unchanged. -/
def Obligations.DivideResults : Prop :=
  ∀ (s : State) (r1 r2 x2 b2 : RegNum) (d2 : Disp), isEven r1 = true →
    let n := (getPair s r1).toInt
    ∀ p ∈ [(Instr.dr r1 r2, (getReg s r2).toInt), (.d r1 x2 b2 d2, (read32 s (eax s x2 b2 d2)).toInt)],
      (p.2 ≠ 0 ∧ fitsWord (n.tdiv p.2) → ∃ q r : Word, n = q.toInt * p.2 + r.toInt ∧ r.toInt.natAbs < p.2.natAbs ∧
        (r.toInt = 0 ∨ (r.toInt < 0 ↔ n < 0)) ∧ SetsPair p.1 s r1 (r ++ q)) ∧
      (p.2 = 0 ∨ ¬fitsWord (n.tdiv p.2) → Traps p.1 s .fixedPointDivide)

/-- CR, C, CH, CLR, CL, CLI, TM (R228 to R230, R293 to R295, R298): only the condition code is set. So with CLC and CLM
(R296, R297), where comparing byte strings left to right is comparing them as unsigned numbers. -/
def Obligations.CompareCodes : Prop :=
  ∀ (s : State) (l i2 : Byte) (r1 r2 m3 x2 b2 b1 : RegNum) (d2 d1 : Disp),
    let x := getReg s r1
    let y := getReg s r2
    let w := read32 s (eax s x2 b2 d2)
    let b := readByte s (ea s b1 d1)
    let bs := selectedBytes m3 x
    SetsCc (.cr r1 r2) s (orderCode x.toInt y.toInt) ∧ SetsCc (.c r1 x2 b2 d2) s (orderCode x.toInt w.toInt) ∧
    SetsCc (.ch r1 x2 b2 d2) s (orderCode x.toInt (read16 s (eax s x2 b2 d2)).toInt) ∧
    SetsCc (.clr r1 r2) s (orderCode x.toNat y.toNat) ∧ SetsCc (.cl r1 x2 b2 d2) s (orderCode x.toNat w.toNat) ∧
    SetsCc (.cli i2 b1 d1) s (orderCode b.toNat i2.toNat) ∧
    SetsCc (.tm i2 b1 d1) s (if b &&& i2 = 0 then 0 else if b &&& i2 = i2 then 3 else 1) ∧
    SetsCc (.clc l b1 d1 b2 d2) s
      (orderCode (bytesValue (readField s (ea s b1 d1) (l.toNat + 1)))
        (bytesValue (readField s (ea s b2 d2) (l.toNat + 1)))) ∧
    SetsCc (.clm r1 m3 b2 d2) s (orderCode (bytesValue bs) (bytesValue (readField s (ea s b2 d2) bs.length)))

/-- SLL, SRL, SRA, SLA (R231 to R234), by the low six bits `n` of the address: multiplication and division by `2^n`,
rounding down; an arithmetic left shift keeps the sign bit and overflows exactly when the product does not fit. -/
def Obligations.SingleShifts : Prop :=
  ∀ (s : State) (r1 r3 b2 : RegNum) (d2 : Disp),
    let x := getReg s r1
    let n := (ea s b2 d2).toNat % 64
    SetsReg (.sll r1 r3 b2 d2) s r1 (BitVec.ofNat 32 (x.toNat * 2 ^ n)) ∧
    SetsReg (.srl r1 r3 b2 d2) s r1 (BitVec.ofNat 32 (x.toNat / 2 ^ n)) ∧
    SetsRegCc (.sra r1 r3 b2 d2) s r1 (BitVec.ofInt 32 (x.toInt / 2 ^ n)) (signCode (x.toInt / 2 ^ n)) ∧
    ∃ v : Word, v.msb = x.msb ∧ v.toNat % 2 ^ 31 = x.toNat * 2 ^ n % 2 ^ 31 ∧
      (fitsWord (x.toInt * 2 ^ n) →
        v.toInt = x.toInt * 2 ^ n ∧ SetsRegCc (.sla r1 r3 b2 d2) s r1 v (signCode v.toInt)) ∧
      (¬fitsWord (x.toInt * 2 ^ n) → s.psw.pm.getLsbD 3 = false → SetsRegCc (.sla r1 r3 b2 d2) s r1 v 3) ∧
      (¬fitsWord (x.toInt * 2 ^ n) → s.psw.pm.getLsbD 3 = true →
        exec (.sla r1 r3 b2 d2) s = .next (programInterrupt (setCc (setReg s r1 v) 3) .fixedPointOverflow))

/-- SLDL, SRDL, SRDA, SLDA (R235 to R238): the same on the 64 bits of an even-odd pair. -/
def Obligations.DoubleShifts : Prop :=
  ∀ (s : State) (r1 r3 b2 : RegNum) (d2 : Disp), isEven r1 = true →
    let x := getPair s r1
    let n := (ea s b2 d2).toNat % 64
    let fits : Prop := -2 ^ 63 ≤ x.toInt * 2 ^ n ∧ x.toInt * 2 ^ n < 2 ^ 63
    SetsPair (.sldl r1 r3 b2 d2) s r1 (BitVec.ofNat 64 (x.toNat * 2 ^ n)) ∧
    SetsPair (.srdl r1 r3 b2 d2) s r1 (BitVec.ofNat 64 (x.toNat / 2 ^ n)) ∧
    SetsPairCc (.srda r1 r3 b2 d2) s r1 (BitVec.ofInt 64 (x.toInt / 2 ^ n)) (signCode (x.toInt / 2 ^ n)) ∧
    ∃ v : DWord, v.msb = x.msb ∧ v.toNat % 2 ^ 63 = x.toNat * 2 ^ n % 2 ^ 63 ∧
      (fits → v.toInt = x.toInt * 2 ^ n ∧ SetsPairCc (.slda r1 r3 b2 d2) s r1 v (signCode v.toInt)) ∧
      (¬fits → s.psw.pm.getLsbD 3 = false → SetsPairCc (.slda r1 r3 b2 d2) s r1 v 3) ∧
      (¬fits → s.psw.pm.getLsbD 3 = true →
        exec (.slda r1 r3 b2 d2) s = .next (programInterrupt (setCc (setPair s r1 v) 3) .fixedPointOverflow))

/-! ## Logical and storage-to-storage operations -/

/-- NR, N, OR, O, XR, X on registers, NI, OI, XI on a byte, and TS (R281 to R283, R285 to R287, R289 to R291, R332):
the result, and whether it is zero; TS the old leftmost bit. -/
def Obligations.BooleanOperations : Prop :=
  ∀ (s : State) (r1 r2 x2 b2 b1 : RegNum) (d2 d1 : Disp) (i2 : Byte),
    let x := getReg s r1
    let y := getReg s r2
    let w := read32 s (eax s x2 b2 d2)
    let a := ea s b1 d1
    let b := readByte s a
    (∀ p ∈ [(Instr.nr r1 r2, x &&& y), (.n r1 x2 b2 d2, x &&& w), (.or r1 r2, x ||| y), (.o r1 x2 b2 d2, x ||| w),
        (.xr r1 r2, x ^^^ y), (.x r1 x2 b2 d2, x ^^^ w)],
      SetsRegCc p.1 s r1 p.2 (if p.2 = 0 then 0 else 1)) ∧
    (memoryCanonical s = true →
      (∀ p ∈ [(Instr.ni i2 b1 d1, b &&& i2), (.oi i2 b1 d1, b ||| i2), (.xi i2 b1 d1, b ^^^ i2)],
        StoresCc p.1 s a [p.2] (if p.2 = 0 then 0 else 1)) ∧
      StoresCc (.ts i2 b1 d1) s a [0xFF] (if b.msb then 1 else 0))

/-- MVC, MVN, MVZ, NC, OC, XC, with any overlap of the operands (R280 c, R284, R288, R292, R304 to R306): result byte
`k` is formed from the old byte there and source byte `k`, which is the new one where an earlier result byte was stored
at its address. The Boolean ones set the condition code from all the result bytes. -/
def Obligations.FieldOperations : Prop :=
  ∀ (s : State) (l : Byte) (b1 b2 : RegNum) (d1 d2 : Disp), memoryCanonical s = true →
    let a := ea s b1 d1
    let c := ea s b2 d2
    ∀ p ∈ [(Instr.mvc l b1 d1 b2 d2, (fun _ v => v : Byte → Byte → Byte), false),
        (.mvn l b1 d1 b2 d2, fun u v => u.extractLsb' 4 4 ++ v.extractLsb' 0 4, false),
        (.mvz l b1 d1 b2 d2, fun u v => v.extractLsb' 4 4 ++ u.extractLsb' 0 4, false),
        (.nc l b1 d1 b2 d2, (· &&& ·), true), (.oc l b1 d1 b2 d2, (· ||| ·), true),
        (.xc l b1 d1 b2 d2, (· ^^^ ·), true)],
      Gives p.1 s fun t =>
        (∀ k ≤ l.toNat,
          readByte t (a + BitVec.ofNat 24 k) =
            p.2.1 (readByte s (a + BitVec.ofNat 24 k))
              (if (c + BitVec.ofNat 24 k - a).toNat < k then readByte t (c + BitVec.ofNat 24 k)
                else readByte s (c + BitVec.ofNat 24 k))) ∧
        SameOutside s t a (l.toNat + 1) ∧ Frame [] [] s t ∧
        t.psw = if p.2.2 then
            { s.psw with cc := if ∀ k ≤ l.toNat, readByte t (a + BitVec.ofNat 24 k) = 0 then 0 else 1 }
          else s.psw

/-- TR and TRT (R307, R308): each argument byte replaced by its table byte, left to right with any overlap; the first
argument byte with a nonzero function byte found, its address and function byte in registers 1 and 2. -/
def Obligations.TranslateFields : Prop :=
  ∀ (s : State) (l : Byte) (b1 b2 : RegNum) (d1 d2 : Disp),
    let a := ea s b1 d1
    let entry (k : Nat) : Addr := ea s b2 d2 + (readByte s (a + BitVec.ofNat 24 k)).setWidth 24
    (memoryCanonical s = true → Gives (.tr l b1 d1 b2 d2) s fun t =>
      (∀ k ≤ l.toNat, readByte t (a + BitVec.ofNat 24 k) =
        if (entry k - a).toNat < k then readByte t (entry k) else readByte s (entry k)) ∧
      SameOutside s t a (l.toNat + 1) ∧ t.psw = s.psw ∧ Frame [] [] s t) ∧
    ((∀ k ≤ l.toNat, readByte s (entry k) = 0) → SetsCc (.trt l b1 d1 b2 d2) s 0) ∧
    (∀ k ≤ l.toNat, (∀ j < k, readByte s (entry j) = 0) → readByte s (entry k) ≠ 0 →
      Gives (.trt l b1 d1 b2 d2) s fun t =>
        getReg t 1 = (getReg s 1).extractLsb' 24 8 ++ (a + BitVec.ofNat 24 k) ∧
        getReg t 2 = (getReg s 2).extractLsb' 8 24 ++ readByte s (entry k) ∧
        t.psw = { s.psw with cc := if k = l.toNat then 2 else 1 } ∧ Frame [1, 2] [] s t ∧ SameMemory s t)

/-- MVCL (R309): without a destructive overlap the destination is filled from the source and then with the padding
byte, and the registers end past what was moved; with one, only the condition code is set. -/
def Obligations.MoveLong : Prop :=
  ∀ (s : State) (r1 r2 : RegNum), memoryCanonical s = true → isEven r1 = true → isEven r2 = true →
    let d : Addr := (getReg s r1).extractLsb' 0 24
    let L1 : Addr := (getReg s (r1 + 1)).extractLsb' 0 24
    let a : Addr := (getReg s r2).extractLsb' 0 24
    let L2 : Addr := (getReg s (r2 + 1)).extractLsb' 0 24
    let pad : Byte := (getReg s (r2 + 1)).extractLsb' 24 8
    let m := min L1.toNat L2.toNat
    let overlap : Prop := 0 < (d - a).toNat ∧ (d - a).toNat < m
    (overlap → SetsCc (.mvcl r1 r2) s 3) ∧
    (¬overlap → Gives (.mvcl r1 r2) s fun t =>
      (∀ k < L1.toNat, readByte t (d + BitVec.ofNat 24 k) =
        if k < L2.toNat then readByte s (a + BitVec.ofNat 24 k) else pad) ∧
      SameOutside s t d L1.toNat ∧
      getReg t r1 = 0#8 ++ (d + L1) ∧ getReg t (r1 + 1) = (getReg s (r1 + 1)).extractLsb' 24 8 ++ 0#24 ∧
      getReg t r2 = 0#8 ++ (a + BitVec.ofNat 24 m) ∧ getReg t (r2 + 1) = pad ++ (L2 - BitVec.ofNat 24 m) ∧
      t.psw = { s.psw with cc := orderCode L1.toNat L2.toNat } ∧ Frame [r1, r1 + 1, r2, r2 + 1] [] s t)

/-- CLCL (R310): the operands, the shorter one extended with the padding byte, agree before place `k`, which is the end
of the longer one or their first difference; the registers end at place `k`. -/
def Obligations.CompareLong : Prop :=
  ∀ (s : State) (r1 r2 : RegNum), isEven r1 = true → isEven r2 = true →
    let a : Addr := (getReg s r1).extractLsb' 0 24
    let L1 : Nat := ((getReg s (r1 + 1)).extractLsb' 0 24).toNat
    let b : Addr := (getReg s r2).extractLsb' 0 24
    let L2 : Nat := ((getReg s (r2 + 1)).extractLsb' 0 24).toNat
    let pad : Byte := (getReg s (r2 + 1)).extractLsb' 24 8
    let u (k : Nat) : Byte := if k < L1 then readByte s (a + BitVec.ofNat 24 k) else pad
    let v (k : Nat) : Byte := if k < L2 then readByte s (b + BitVec.ofNat 24 k) else pad
    ∀ k ≤ max L1 L2, (∀ j < k, u j = v j) → (k = max L1 L2 ∨ u k ≠ v k) →
      Gives (.clcl r1 r2) s fun t =>
        getReg t r1 = 0#8 ++ (a + BitVec.ofNat 24 (min k L1)) ∧
        getReg t (r1 + 1) = (getReg s (r1 + 1)).extractLsb' 24 8 ++ BitVec.ofNat 24 (L1 - min k L1) ∧
        getReg t r2 = 0#8 ++ (b + BitVec.ofNat 24 (min k L2)) ∧
        getReg t (r2 + 1) = pad ++ BitVec.ofNat 24 (L2 - min k L2) ∧
        t.psw = { s.psw with cc := if k = max L1 L2 then 0 else orderCode (u k).toNat (v k).toNat } ∧
        Frame [r1, r1 + 1, r2, r2 + 1] [] s t ∧ SameMemory s t

/-- CS and CDS on an aligned operand (R330, R331): equal, the third operand is stored; unequal, the first is loaded. -/
def Obligations.CompareAndSwap : Prop :=
  ∀ (s : State) (r1 r3 b2 : RegNum) (d2 : Disp), memoryCanonical s = true →
    let a := ea s b2 d2
    (a.toNat % 4 = 0 → read32 s a = getReg s r1 →
      StoresCc (.cs r1 r3 b2 d2) s a (bytesBE 4 (getReg s r3).toNat) 0) ∧
    (a.toNat % 4 = 0 → read32 s a ≠ getReg s r1 → SetsRegCc (.cs r1 r3 b2 d2) s r1 (read32 s a) 1) ∧
    (isEven r1 = true → isEven r3 = true → a.toNat % 8 = 0 → read64 s a = getPair s r1 →
      StoresCc (.cds r1 r3 b2 d2) s a (bytesBE 8 (getPair s r3).toNat) 0) ∧
    (isEven r1 = true → isEven r3 = true → a.toNat % 8 = 0 → read64 s a ≠ getPair s r1 →
      SetsPairCc (.cds r1 r3 b2 d2) s r1 (read64 s a) 1)

/-! ## Branches -/

/-- BC and BCR, BCT and BCTR, BXH and BXLE (R340, R341, R347 to R350): when the branch is taken, the count and the
index; BAL, BALR, BAS, BASR (R342 to R346): the link, from the PSW after the advance, and the target, from the
registers before the link is written; and that nothing else changes. The mask bit of weight 8 selects condition
code 0. -/
def Obligations.BranchResults : Prop :=
  ∀ (s : State) (r1 r2 r3 x2 b2 : RegNum) (d2 : Disp),
    let taken : Prop := (8#4 >>> s.psw.cc.toNat) &&& r1 ≠ 0
    let target : Addr := (getReg s r2).extractLsb' 0 24
    let next := s.psw.pc
    let link : Word := s.psw.ilc ++ s.psw.cc ++ s.psw.pm ++ next
    let count := getReg s r1 - 1
    let sum := getReg s r1 + getReg s r3
    let limit := getReg s (if isEven r3 then r3 + 1 else r3)
    SetsPc (.bc r1 x2 b2 d2) s (if taken then eax s x2 b2 d2 else next) ∧
    SetsPc (.bcr r1 r2) s (if r2 ≠ 0 ∧ taken then target else next) ∧
    SetsRegPc (.bct r1 x2 b2 d2) s r1 count (if count ≠ 0 then eax s x2 b2 d2 else next) ∧
    SetsRegPc (.bctr r1 r2) s r1 count (if r2 ≠ 0 ∧ count ≠ 0 then target else next) ∧
    SetsRegPc (.bxh r1 r3 b2 d2) s r1 sum (if sum.toInt > limit.toInt then ea s b2 d2 else next) ∧
    SetsRegPc (.bxle r1 r3 b2 d2) s r1 sum (if sum.toInt ≤ limit.toInt then ea s b2 d2 else next) ∧
    SetsRegPc (.bal r1 x2 b2 d2) s r1 link (eax s x2 b2 d2) ∧
    SetsRegPc (.balr r1 r2) s r1 link (if r2 ≠ 0 then target else next) ∧
    SetsRegPc (.bas r1 x2 b2 d2) s r1 (0#8 ++ next) (eax s x2 b2 d2) ∧
    SetsRegPc (.basr r1 r2) s r1 (0#8 ++ next) (if r2 ≠ 0 then target else next)

/-! ## System instructions -/

/-- SSM, STNSM, STOSM, SPM (R172 to R174, R176): the masks, and that the stored mask is the one before. SSK and ISK
(R177, R178): the key of the page of an address, seven bits set, five read. -/
def Obligations.MasksAndStorageKeys : Prop :=
  ∀ (s : State) (i2 : Byte) (r1 r2 b1 : RegNum) (d1 : Disp),
    let a := ea s b1 d1
    let page : BitVec 13 := (getReg s r2).extractLsb' 11 13
    Gives (.ssm i2 b1 d1) s (fun t =>
      t.psw = { s.psw with sm := readByte s a } ∧ Frame [] [] s t ∧ SameMemory s t) ∧
    Gives (.spm r1 r2) s (fun t =>
      t.psw = { s.psw with cc := (getReg s r1).extractLsb' 28 2, pm := (getReg s r1).extractLsb' 24 4 } ∧
      Frame [] [] s t ∧ SameMemory s t) ∧
    (memoryCanonical s = true →
      Gives (.stnsm i2 b1 d1) s (fun t => readByte t a = s.psw.sm ∧ SameOutside s t a 1 ∧
        t.psw = { s.psw with sm := s.psw.sm &&& i2 } ∧ Frame [] [] s t) ∧
      Gives (.stosm i2 b1 d1) s (fun t => readByte t a = s.psw.sm ∧ SameOutside s t a 1 ∧
        t.psw = { s.psw with sm := s.psw.sm ||| i2 } ∧ Frame [] [] s t) ∧
      Gives (.ssk r1 r2) s (fun t =>
        readKey t page = (getReg s r1).extractLsb' 1 7 ++ 0#1 ∧ (∀ q, q ≠ page → readKey t q = readKey s q) ∧
        t.psw = s.psw ∧ SameRegsBut [] s t ∧ SameFprsBut [] s t ∧ SameMemory s t ∧
        SameControl { s with keys := t.keys } t)) ∧
    SetsReg (.isk r1 r2) s r1 ((getReg s r1).extractLsb' 8 24 ++ (readKey s page).extractLsb' 3 5 ++ 0#3)

/-- STCK (R179), whatever the host's clock says: the stored value is the new last value; it is greater than the one
before, unless that was the greatest of all; it is the host's microseconds above twelve zero bits where that is
greater, and else the last value plus one (the algorithm is R179's, which a machine need not follow: log 8). -/
def Obligations.StoreClockIncreases : Prop :=
  ∀ (s : State) (b2 : RegNum) (d2 : Disp), memoryCanonical s = true →
    let a := ea s b2 d2
    let host : DWord := BitVec.ofNat 52 (hostTime s) ++ 0#12
    Gives (.stck b2 d2) s fun t =>
      read64 t a = t.lastClock ∧ (s.lastClock.toNat < 2 ^ 64 - 1 → s.lastClock.toNat < t.lastClock.toNat) ∧
      t.lastClock = (if s.lastClock.toNat < host.toNat then host else s.lastClock + 1) ∧
      SameOutside s t a 8 ∧ t.psw = { s.psw with cc := 0 } ∧ SameRegsBut [] s t ∧ SameFprsBut [] s t ∧
      SameControl { s with lastClock := t.lastClock, clockReads := s.clockReads + 1 } t

/-- The instructions handed to the host (R148, R180 to R198): the record from the instruction's own bits, the kind and
the value returned, nothing else changed. -/
def Obligations.HandOffInstructions : Prop :=
  ∀ (s : State) (u : BitVec 7) (r1 r3 b2 : RegNum) (d2 : Disp),
    let io := fun v : Word => ExecResult.sentinel .io (0#16 ++ v.extractLsb' 16 16)
    let priv := fun v : Word => ExecResult.sentinel .priv (0#16 ++ v.extractLsb' 16 16)
    let diag := fun v : Word => ExecResult.sentinel .diag v
    ∀ p ∈ [(Instr.sio u b2 d2, 0x9C#8, u ++ 0#1, io), (.siof u b2 d2, 0x9C#8, u ++ 1#1, io),
        (.tio u b2 d2, 0x9D#8, u ++ 0#1, io), (.hio u b2 d2, 0x9E#8, u ++ 0#1, io),
        (.hdv u b2 d2, 0x9E#8, u ++ 1#1, io), (.tch u b2 d2, 0x9F#8, u ++ 0#1, io),
        (.diag r1 r3 b2 d2, 0x83#8, r1 ++ r3, diag), (.stctl r1 r3 b2 d2, 0xB6#8, r1 ++ r3, priv),
        (.lctl r1 r3 b2 d2, 0xB7#8, r1 ++ r3, priv), (.sckc b2 d2, 0xB2#8, 0x06#8, priv),
        (.stckc b2 d2, 0xB2#8, 0x07#8, priv), (.ptlb b2 d2, 0xB2#8, 0x0D#8, priv), (.spx b2 d2, 0xB2#8, 0x10#8, priv),
        (.stpx b2 d2, 0xB2#8, 0x11#8, priv), (.stap b2 d2, 0xB2#8, 0x12#8, priv)],
      let insn : Word := p.2.1 ++ p.2.2.1 ++ b2 ++ d2
      exec p.1 s = .next { s with
        record := { ra := p.2.2.1.extractLsb' 4 4, rb := p.2.2.1.extractLsb' 0 4, imm := p.2.2.1
                    addr := ea s b2 d2, insn := insn }
        result := p.2.2.2 insn }

/-- EX (R152, R153): at an even address with a target other than EX, it runs the instruction that the target's bytes,
the second one OR-ed with the register's low byte, decode to, with the EX-target flag on for its duration; nested, at
an odd address, or with an EX as target it traps; and a target with no row is handed off (R112): the record from the
target's own bytes, the result of the kind of the first of them, nothing else changed. That the flag is off again after a
target that is handed off, with a row or with none, is the model's choice (log 18). -/
def Obligations.ExecuteRunsTarget : Prop :=
  ∀ (s : State) (r1 x2 b2 : RegNum) (d2 : Disp),
    let a := eax s x2 b2 d2
    let or : Byte := if r1 = 0 then 0 else (getReg s r1).extractLsb' 0 8
    let T := readByte s a :: (readByte s (a + 1) ||| or) :: readField s (a + 2) 4
    (∀ (i : Instr) (rest : List Byte), s.exTarget = false → a.getLsbD 0 = false → readByte s a ≠ 0x44 →
      decode T = .ok (i, rest) →
      ∃ t, exec i { s with exTarget := true } = .next t ∧ exec (.ex r1 x2 b2 d2) s = .next { t with exTarget := false }) ∧
    (∀ e : Reject, s.exTarget = false → a.getLsbD 0 = false → readByte s a ≠ 0x44 → decode T = .error e →
      let t0 := readByte s a
      let t1 := readByte s (a + 1) ||| or
      let t2 := readByte s (a + 2)
      let t3 := readByte s (a + 3)
      exec (.ex r1 x2 b2 d2) s = .next { s with
        record := { ra := t1.extractLsb' 4 4, rb := t1.extractLsb' 0 4, imm := t1
                    addr := ea s (t2.extractLsb' 4 4) (t2.extractLsb' 0 4 ++ t3), insn := t0 ++ t1 ++ t2 ++ t3 }
        result :=
          if t0 = 0x9C ∨ t0 = 0x9D ∨ t0 = 0x9E ∨ t0 = 0x9F then .sentinel .io (0#16 ++ t0 ++ t1)
          else if t0 = 0xB2 then .sentinel .priv (0#16 ++ t0 ++ t1)
          else .unknownInstruction }) ∧
    (s.exTarget = true → Traps (.ex r1 x2 b2 d2) s .execute) ∧
    (s.exTarget = false → a.getLsbD 0 = true → Traps (.ex r1 x2 b2 d2) s .specification) ∧
    (s.exTarget = false → a.getLsbD 0 = false → readByte s a = 0x44 → Traps (.ex r1 x2 b2 d2) s .execute)

/-! ## Hexadecimal floating point -/

/-- The load group (R377, R402 to R405, R407, R415 to R418, R421, R430, R439): the operand, cut to its precision, with
the sign the instruction gives it, also when it is zero; the test forms set the condition code from the result. -/
def Obligations.FloatLoads : Prop :=
  ∀ (s : State) (r1 r2 x2 b2 : RegNum) (d2 : Disp) (f g : FReg), fregOf r1 = some f →
    SetsFpr (.ld r1 x2 b2 d2) s f (unpackLong (read64 s (eax s x2 b2 d2))) ∧
    SetsFpr (.le r1 x2 b2 d2) s f (unpackShort (read32 s (eax s x2 b2 d2))) ∧
    (fregOf r2 = some g →
      let v := getFpr s g
      let w := if v.z then v else { v with F := v.F / 2 ^ 32 * 2 ^ 32 }
      SetsFpr (.ldr r1 r2) s f v ∧ SetsFpr (.ler r1 r2) s f w ∧
      ∀ p ∈ [(Instr.lpdr r1 r2, { v with pos := true }), (.lndr r1 r2, { v with pos := false }), (.ltdr r1 r2, v),
          (.lcdr r1 r2, { v with pos := !v.pos }), (.lper r1 r2, { w with pos := true }),
          (.lner r1 r2, { w with pos := false }), (.lter r1 r2, w), (.lcer r1 r2, { w with pos := !w.pos })],
        SetsFprCc p.1 s f p.2 (floatCode p.2))

/-- STD and STE (R365, R366, R429, R438) store the image of the register, the short one its high half. The image of a zero
is its sign; that of a value is its sign, its exponent plus 64 and its fraction, and for an exponent below −64 the
characteristic 0 and the fraction shifted right by the missing digits (R365). Unpacking what
was packed gives the value back where the exponent is in range, and packing what was unpacked keeps value and sign.
Unpacking an image (R363, R364) gives `± fraction × 16^(characteristic − 64)` exactly, normalized, the sign kept. -/
def Obligations.FloatImages : Prop :=
  (∀ (s : State) (r1 x2 b2 : RegNum) (d2 : Disp) (f : FReg), memoryCanonical s = true → fregOf r1 = some f →
    let img := packLong (getFpr s f)
    Stores (.std r1 x2 b2 d2) s (eax s x2 b2 d2) (bytesBE 8 img.toNat) ∧
    Stores (.ste r1 x2 b2 d2) s (eax s x2 b2 d2) (bytesBE 4 (img.toNat / 2 ^ 32))) ∧
  (∀ v : FloatValue, v.wf = true →
    let sign := ((packLong v).extractLsb' 63 1).toNat
    let characteristic := ((packLong v).extractLsb' 56 7).toNat
    let fraction := ((packLong v).extractLsb' 0 56).toNat
    sign = (if v.pos then 0 else 1) ∧
    (v.z = true → characteristic = 0 ∧ fraction = 0) ∧
    (v.z = false → -64 ≤ v.e → v.e ≤ 63 → (characteristic : Int) = v.e + 64 ∧ fraction = v.F) ∧
    (v.z = false → v.e < -64 → characteristic = 0 ∧ fraction = v.F / 2 ^ (4 * (-64 - v.e).toNat))) ∧
  (∀ v : FloatValue, v.wf = true → -64 ≤ v.e → unpackLong (packLong v) = v) ∧
  (∀ w : DWord,
    let v := unpackLong w
    unpackLong (packLong v) = v ∧ v.wf = true ∧ v.pos = !w.msb ∧
    v.val = (if w.msb then -1 else 1) * ((w.extractLsb' 0 56).toNat : ℚ) *
      (16 : ℚ) ^ (((w.extractLsb' 56 7).toNat : Int) - 64 - 14)) ∧
  (∀ w : Word, unpackShort w = unpackLong (w ++ 0#32))

/-- The floating-point adds and subtracts (R371, R409, R410, R413, R414, R423, R424, R427, R428, R432, R433, R436,
R437, R441, R442, R445, R446) with a result in range: the exact sum or difference of the operands, cut to the
precision, and its sign as the condition code. A zero result needs the significance mask bit 0. -/
def Obligations.FloatAddSubtract : Prop :=
  ∀ (s : State) (r1 r2 x2 b2 : RegNum) (d2 : Disp) (f g : FReg) (v : FloatValue), fregOf r1 = some f →
    (v.z = true → s.psw.pm.getLsbD 0 = false) → (v.z = false → -64 ≤ v.e ∧ v.e ≤ 63) →
    let a := (getFpr s f).val
    let m := (unpackLong (read64 s (eax s x2 b2 d2))).val
    let sa := (shortened 6 (getFpr s f)).val
    let sm := (unpackShort (read32 s (eax s x2 b2 d2))).val
    (∀ p ∈ [(Instr.ad r1 x2 b2 d2, a + m), (.aw r1 x2 b2 d2, a + m), (.sd r1 x2 b2 d2, a - m),
        (.sw r1 x2 b2 d2, a - m)], TruncatesTo 14 p.2 v → SetsFprCc p.1 s f v (floatCode v)) ∧
    (∀ p ∈ [(Instr.ae r1 x2 b2 d2, sa + sm), (.au r1 x2 b2 d2, sa + sm), (.se r1 x2 b2 d2, sa - sm),
        (.su r1 x2 b2 d2, sa - sm)], TruncatesTo 6 p.2 v → SetsFprCc p.1 s f v (floatCode v)) ∧
    (fregOf r2 = some g →
      let b := (getFpr s g).val
      let sb := (shortened 6 (getFpr s g)).val
      (∀ p ∈ [(Instr.adr r1 r2, a + b), (.awr r1 r2, a + b), (.sdr r1 r2, a - b), (.swr r1 r2, a - b)],
        TruncatesTo 14 p.2 v → SetsFprCc p.1 s f v (floatCode v)) ∧
      (∀ p ∈ [(Instr.aer r1 r2, sa + sb), (.aur r1 r2, sa + sb), (.ser r1 r2, sa - sb), (.sur r1 r2, sa - sb)],
        TruncatesTo 6 p.2 v → SetsFprCc p.1 s f v (floatCode v)))

/-- The floating-point multiplies, divides and halves (R372, R373, R375, R406, R411, R412, R419, R425, R426, R434,
R435, R443, R444) with a result in range: the exact product, quotient or half, cut to the precision of the result; the
condition code stays. A short product is long. -/
def Obligations.FloatMultiplyDivideHalve : Prop :=
  ∀ (s : State) (r1 r2 x2 b2 : RegNum) (d2 : Disp) (f g : FReg) (v : FloatValue), fregOf r1 = some f →
    (v.z = false → -64 ≤ v.e ∧ v.e ≤ 63) →
    let a := (getFpr s f).val
    let m := (unpackLong (read64 s (eax s x2 b2 d2))).val
    let sa := (shortened 6 (getFpr s f)).val
    let sm := (unpackShort (read32 s (eax s x2 b2 d2))).val
    (TruncatesTo 14 (a * m) v → SetsFpr (.md r1 x2 b2 d2) s f v) ∧
    (TruncatesTo 14 (sa * sm) v → SetsFpr (.me r1 x2 b2 d2) s f v) ∧
    ((unpackLong (read64 s (eax s x2 b2 d2))).z = false → TruncatesTo 14 (a / m) v →
      SetsFpr (.dd r1 x2 b2 d2) s f v) ∧
    ((unpackShort (read32 s (eax s x2 b2 d2))).z = false → TruncatesTo 6 (sa / sm) v →
      SetsFpr (.de r1 x2 b2 d2) s f v) ∧
    (fregOf r2 = some g →
      let b := (getFpr s g).val
      let sb := (shortened 6 (getFpr s g)).val
      (TruncatesTo 14 (a * b) v → SetsFpr (.mdr r1 r2) s f v) ∧
      (TruncatesTo 14 (sa * sb) v → SetsFpr (.mer r1 r2) s f v) ∧
      ((getFpr s g).wf = true → (getFpr s g).z = false → TruncatesTo 14 (a / b) v → SetsFpr (.ddr r1 r2) s f v) ∧
      ((getFpr s g).wf = true → (getFpr s g).z = false → TruncatesTo 6 (sa / sb) v → SetsFpr (.der r1 r2) s f v) ∧
      (TruncatesTo 14 (b / 2) v → SetsFpr (.hdr r1 r2) s f v) ∧
      (TruncatesTo 6 (sb / 2) v → SetsFpr (.her r1 r2) s f v))

/-- The conditions of the floating-point arithmetic (R370, R371, R373). A result exponent above 63 is lowered by 128 and
interrupts. One below −64 is raised by 128 and interrupts with the mask bit 1, and gives the true zero without, as an
unnormalized add or subtract always does. A zero divisor interrupts with the register unchanged. A zero sum or
difference interrupts with the significance mask bit 1, for a zero first operand only where the open parameter says
so. -/
def Obligations.FloatExceptions : Prop :=
  ∀ (s : State) (r1 r2 x2 b2 : RegNum) (d2 : Disp) (f g : FReg) (v : FloatValue),
    fregOf r1 = some f → fregOf r2 = some g →
    let long := unpackLong (read64 s (eax s x2 b2 d2))
    let short := unpackShort (read32 s (eax s x2 b2 d2))
    let a := (getFpr s f).val
    let b := (getFpr s g).val
    let sa := (shortened 6 (getFpr s f)).val
    let sb := (shortened 6 (getFpr s g)).val
    let adds : List (Instr × Nat × ℚ × Bool) :=
      [(.adr r1 r2, 14, a + b, true), (.sdr r1 r2, 14, a - b, true), (.awr r1 r2, 14, a + b, false),
        (.swr r1 r2, 14, a - b, false), (.aer r1 r2, 6, sa + sb, true), (.ser r1 r2, 6, sa - sb, true),
        (.aur r1 r2, 6, sa + sb, false), (.sur r1 r2, 6, sa - sb, false),
        (.ad r1 x2 b2 d2, 14, a + long.val, true), (.sd r1 x2 b2 d2, 14, a - long.val, true),
        (.aw r1 x2 b2 d2, 14, a + long.val, false), (.sw r1 x2 b2 d2, 14, a - long.val, false),
        (.ae r1 x2 b2 d2, 6, sa + short.val, true), (.se r1 x2 b2 d2, 6, sa - short.val, true),
        (.au r1 x2 b2 d2, 6, sa + short.val, false), (.su r1 x2 b2 d2, 6, sa - short.val, false)]
    let others : List (Instr × Nat × ℚ) :=
      [(.mdr r1 r2, 14, a * b), (.mer r1 r2, 14, sa * sb), (.ddr r1 r2, 14, a / b), (.der r1 r2, 6, sa / sb),
        (.hdr r1 r2, 14, b / 2), (.her r1 r2, 6, sb / 2), (.md r1 x2 b2 d2, 14, a * long.val),
        (.me r1 x2 b2 d2, 14, sa * short.val), (.dd r1 x2 b2 d2, 14, a / long.val),
        (.de r1 x2 b2 d2, 6, sa / short.val)]
    let up := { v with e := v.e - 128 }
    let down := { v with e := v.e + 128 }
    (∀ p ∈ adds, v.z = false → TruncatesTo p.2.1 p.2.2.1 v →
      (63 < v.e → exec p.1 s =
        .next (programInterrupt (setCc (setFpr s f up) (floatCode v)) .exponentOverflow)) ∧
      (v.e < -64 → p.2.2.2 = true → s.psw.pm.getLsbD 1 = true → exec p.1 s =
        .next (programInterrupt (setCc (setFpr s f down) (floatCode v)) .exponentUnderflow)) ∧
      (v.e < -64 → p.2.2.2 = false ∨ s.psw.pm.getLsbD 1 = false → SetsFprCc p.1 s f .zero 0)) ∧
    (∀ p ∈ others, v.z = false → TruncatesTo p.2.1 p.2.2 v →
      (63 < v.e → exec p.1 s = .next (programInterrupt (setFpr s f up) .exponentOverflow)) ∧
      (v.e < -64 → s.psw.pm.getLsbD 1 = true →
        exec p.1 s = .next (programInterrupt (setFpr s f down) .exponentUnderflow)) ∧
      (v.e < -64 → s.psw.pm.getLsbD 1 = false → SetsFpr p.1 s f .zero)) ∧
    (∀ p ∈ [(Instr.ddr r1 r2, (getFpr s g).z), (.der r1 r2, (getFpr s g).z), (.dd r1 x2 b2 d2, long.z),
      (.de r1 x2 b2 d2, short.z)], p.2 = true → Traps p.1 s .floatDivide) ∧
    (∀ p ∈ adds, p.2.2.1 = 0 → s.psw.pm.getLsbD 0 = true →
      let u := setCc (setFpr s f .zero) 0
      exec p.1 s = .next (if (getFpr s f).z && !Config.sigOnZeroFirstOperand then u else programInterrupt u .significance))

/-- CDR, CD, CER, CE (R374): the order of the exact values; only the condition code is set. -/
def Obligations.FloatCompare : Prop :=
  ∀ (s : State) (r1 r2 x2 b2 : RegNum) (d2 : Disp) (f g : FReg), fregOf r1 = some f →
    let order (a b : ℚ) : CC := if a = b then 0 else if a < b then 1 else 2
    let a := (getFpr s f).val
    let sa := (shortened 6 (getFpr s f)).val
    SetsCc (.cd r1 x2 b2 d2) s (order a (unpackLong (read64 s (eax s x2 b2 d2))).val) ∧
    SetsCc (.ce r1 x2 b2 d2) s (order sa (unpackShort (read32 s (eax s x2 b2 d2))).val) ∧
    (fregOf r2 = some g →
      SetsCc (.cdr r1 r2) s (order a (getFpr s g).val) ∧ SetsCc (.cer r1 r2) s (order sa (shortened 6 (getFpr s g)).val))

/-- LRER (R376): the magnitude plus half a unit of the sixth digit, cut to six digits; a zero is copied; an exponent
above 63 is lowered by 128 and interrupts. -/
def Obligations.LoadRounded : Prop :=
  ∀ (s : State) (r1 r2 : RegNum) (f g : FReg) (v : FloatValue), fregOf r1 = some f → fregOf r2 = some g →
    let b := getFpr s g
    (b.z = true → SetsFpr (.lrer r1 r2) s f b) ∧
    (b.wf = true → b.z = false →
      TruncatesTo 6 (b.val + (if b.pos then 1 else -1) * (16 : ℚ) ^ (b.e - 6) / 2) v →
      (v.e ≤ 63 → SetsFpr (.lrer r1 r2) s f v) ∧
      (63 < v.e → exec (.lrer r1 r2) s =
        .next (programInterrupt (setFpr s f { v with e := v.e - 128 }) .exponentOverflow)))

/-! ## Packed decimal -/

/-- The packed-decimal code (R473 to R475). The nibbles of a field, left to right, are its digits and at the end its sign:
a field is valid where every digit is at most 9 and the sign at least hexadecimal A; it is negative where the sign is B or
D; its magnitude is the sum of its digits times powers of ten. An encoded field holds the low digits of the magnitude and
the sign D or C, and decodes to them. -/
def Obligations.DecimalFieldCode : Prop :=
  let nibble (bs : List Byte) (k : Nat) : Nat :=
    ((bs.getD (k / 2) 0).extractLsb' (if k % 2 = 0 then 4 else 0) 4).toNat
  (∀ (L : Nat) (neg : Bool) (mag : Nat), 0 < L →
    (encField L neg mag).length = L ∧ decField (encField L neg mag) = ⟨true, neg, mag % 10 ^ (2 * L - 1)⟩ ∧
    nibble (encField L neg mag) (2 * L - 1) = (if neg then 0xD else 0xC) ∧
    ∀ k < 2 * L - 1, nibble (encField L neg mag) k = mag / 10 ^ (2 * L - 2 - k) % 10) ∧
  (∀ (bs : List Byte), bs ≠ [] →
    let n := 2 * bs.length - 1
    ((decField bs).valid = true ↔ (∀ k < n, nibble bs k ≤ 9) ∧ 0xA ≤ nibble bs n) ∧
    ((decField bs).neg = true ↔ nibble bs n = 0xB ∨ nibble bs n = 0xD) ∧
    (decField bs).mag = ((List.range n).map fun k => nibble bs k * 10 ^ (n - 1 - k)).sum)

/-- ZAP, AP, SP, SRP on valid operands (R476, R502 to R504, R508): a result that fits is stored with its sign, zero as
plus, and its sign is the condition code; one that does not loses its high digits, keeps its sign, sets 3, and
interrupts if and only if the mask bit is 1. -/
def Obligations.DecimalArithmetic : Prop :=
  ∀ (s : State) (l1 l2 b1 b2 : RegNum) (d1 d2 : Disp), memoryCanonical s = true →
    let a1 := ea s b1 d1
    let L := l1.toNat + 1
    let u := decField (readField s a1 L)
    let v := decField (readField s (ea s b2 d2) (l2.toNat + 1))
    let shift : Int := ((ea s b2 d2).extractLsb' 0 6).toInt
    let shifted : Int :=
      if 0 ≤ shift then u.val * 10 ^ shift.toNat
      else u.val.sign * ((u.mag + l2.toNat * 10 ^ ((-shift).toNat - 1)) / 10 ^ (-shift).toNat : Nat)
    ∀ p ∈ [(Instr.zap l1 l2 b1 d1 b2 d2, v.val, v.valid), (.ap l1 l2 b1 d1 b2 d2, u.val + v.val, u.valid && v.valid),
        (.sp l1 l2 b1 d1 b2 d2, u.val - v.val, u.valid && v.valid),
        (.srp l1 l2 b1 d1 b2 d2, shifted, u.valid && decide (l2.toNat ≤ 9))],
      p.2.2 = true →
      let r := p.2.1
      (r.natAbs < 10 ^ (2 * L - 1) → StoresCc p.1 s a1 (encField L (decide (r < 0)) r.natAbs) (signCode r)) ∧
      (10 ^ (2 * L - 1) ≤ r.natAbs → s.psw.pm.getLsbD 2 = false →
        StoresCc p.1 s a1 (encField L (decide (r < 0)) r.natAbs) 3) ∧
      (10 ^ (2 * L - 1) ≤ r.natAbs → s.psw.pm.getLsbD 2 = true →
        exec p.1 s = .next (programInterrupt
          (setCc (writeField s a1 (encField L (decide (r < 0)) r.natAbs)) 3) .decimalOverflow))

/-- CP, MP and DP on valid operands (R505 to R507): the order; the product, for a multiplicand with room for it; the
quotient and the remainder, or the decimal-divide exception with nothing stored. -/
def Obligations.DecimalProducts : Prop :=
  ∀ (s : State) (l1 l2 b1 b2 : RegNum) (d1 d2 : Disp), memoryCanonical s = true →
    let a1 := ea s b1 d1
    let L1 := l1.toNat + 1
    let L2 := l2.toNat + 1
    let u := decField (readField s a1 L1)
    let v := decField (readField s (ea s b2 d2) L2)
    u.valid = true → v.valid = true →
    SetsCc (.cp l1 l2 b1 d1 b2 d2) s (orderCode u.val v.val) ∧
    (L2 ≤ 8 → L2 < L1 →
      (u.mag < 10 ^ (2 * (L1 - L2) - 1) →
        u.mag * v.mag < 10 ^ (2 * L1 - 1) ∧
        Stores (.mp l1 l2 b1 d1 b2 d2) s a1 (encField L1 (u.neg != v.neg) (u.mag * v.mag))) ∧
      (v.mag ≠ 0 → u.mag / v.mag < 10 ^ (2 * (L1 - L2) - 1) →
        Stores (.dp l1 l2 b1 d1 b2 d2) s a1
          (encField (L1 - L2) (u.neg != v.neg) (u.mag / v.mag) ++ encField L2 u.neg (u.mag % v.mag))) ∧
      (v.mag = 0 ∨ 10 ^ (2 * (L1 - L2) - 1) ≤ u.mag / v.mag →
        Traps (.dp l1 l2 b1 d1 b2 d2) s .decimalDivide))

/-- CVB and CVD (R512, R513): the binary value of a valid field, written also when it does not fit, with the
fixed-point-divide exception then; the decimal field of a register, with the preferred sign of R475, which decodes to the
register's value. -/
def Obligations.DecimalConversions : Prop :=
  ∀ (s : State) (r1 x2 b2 : RegNum) (d2 : Disp),
    let a := eax s x2 b2 d2
    let u := decField (readField s a 8)
    (u.valid = true → fitsWord u.val → SetsReg (.cvb r1 x2 b2 d2) s r1 (BitVec.ofInt 32 u.val)) ∧
    (u.valid = true → ¬fitsWord u.val → exec (.cvb r1 x2 b2 d2) s =
      .next (programInterrupt (setReg s r1 (BitVec.ofInt 32 u.val)) .fixedPointDivide)) ∧
    (memoryCanonical s = true →
      let x := (getReg s r1).toInt
      let bs := encField 8 (decide (x < 0)) x.natAbs
      bs.length = 8 ∧ (decField bs).valid = true ∧ (decField bs).val = x ∧ Stores (.cvd r1 x2 b2 d2) s a bs)

/-- PACK, UNPK and MVO, with any overlap (R86, R509 to R511). Places are counted from the right; source byte `j` is
read when the result places before `i` have been stored, so it is the new byte where one of those lies at its address;
a source byte beyond the field's left end is zero. -/
def Obligations.PackUnpackMove : Prop :=
  ∀ (s : State) (l1 l2 b1 b2 : RegNum) (d1 d2 : Disp), memoryCanonical s = true →
    let a1 := ea s b1 d1
    let a2 := ea s b2 d2
    let m := l1.toNat
    let dest (i : Nat) : Addr := a1 + BitVec.ofNat 24 (m - i)
    let source (t : State) (i j : Nat) : Byte :=
      let x := a2 + BitVec.ofNat 24 (l2.toNat - j)
      if l2.toNat < j then 0
      else if (a1 + BitVec.ofNat 24 m - x).toNat < i then readByte t x else readByte s x
    let low (b : Byte) : BitVec 4 := b.extractLsb' 0 4
    let high (b : Byte) : BitVec 4 := b.extractLsb' 4 4
    (Gives (.pack l1 l2 b1 d1 b2 d2) s fun t =>
      readByte t (dest 0) = low (source t 0 0) ++ high (source t 0 0) ∧
      (∀ i, 1 ≤ i → i ≤ m → readByte t (dest i) = low (source t i (2 * i)) ++ low (source t i (2 * i - 1))) ∧
      SameOutside s t a1 (m + 1) ∧ t.psw = s.psw ∧ Frame [] [] s t) ∧
    (Gives (.unpk l1 l2 b1 d1 b2 d2) s fun t =>
      readByte t (dest 0) = low (source t 0 0) ++ high (source t 0 0) ∧
      (∀ j, 2 * j + 1 ≤ m → readByte t (dest (2 * j + 1)) = 0xF#4 ++ low (source t (2 * j + 1) (j + 1))) ∧
      (∀ j, 2 * j + 2 ≤ m → readByte t (dest (2 * j + 2)) = 0xF#4 ++ high (source t (2 * j + 1) (j + 1))) ∧
      SameOutside s t a1 (m + 1) ∧ t.psw = s.psw ∧ Frame [] [] s t) ∧
    (Gives (.mvo l1 l2 b1 d1 b2 d2) s fun t =>
      readByte t (dest 0) = low (source t 0 0) ++ low (readByte s (dest 0)) ∧
      (∀ i, 1 ≤ i → i ≤ m → readByte t (dest i) = low (source t i i) ++ high (source t (i - 1) (i - 1))) ∧
      SameOutside s t a1 (m + 1) ∧ t.psw = s.psw ∧ Frame [] [] s t)

/-- ED and EDMK (R514 to R516), in every state: they complete, with only the pattern, the condition code and, for EDMK,
register 1 changed. Edit goes through points, one before each pattern byte and one after the last, each made from the one
before as R516 says, and stops early at an invalid digit alone (R478). Where it reaches the end, storage is that of the
last point, the condition code tells the last field, zero, negative or positive, and EDMK puts the mark, if there is one,
in the low 24 bits of register 1. -/
def Obligations.EditResults : Prop :=
  ∀ (s : State) (l : Byte) (b1 b2 : RegNum) (d1 d2 : Disp), memoryCanonical s = true →
    let a1 := ea s b1 d1
    let n := l.toNat + 1
    let place (k : Nat) : Addr := a1 + BitVec.ofNat 24 k
    ∃ (m : Nat) (p : Nat → EditPoint), m ≤ n ∧
      p 0 = { byte := readByte s, source := ea s b2 d2, left := true, sig := false, nz := false, mark := none } ∧
      (∀ k < m, ¬BadEditDigit (place k) (p k) ∧
        EditsByte (readByte s a1) (decide (k = 0)) (place k) (p k) (p (k + 1))) ∧
      (m < n → BadEditDigit (place m) (p m)) ∧
      let code : CC := if (p n).nz then (if (p n).sig then 1 else 2) else 0
      let edited (t : State) : Prop := m = n → (∀ x, readByte t x = (p n).byte x) ∧ t.psw.cc = code
      Gives (.ed l b1 d1 b2 d2) s (fun t =>
        edited t ∧ SameOutside s t a1 n ∧ t.psw = { s.psw with cc := t.psw.cc } ∧ Frame [] [] s t) ∧
      Gives (.edmk l b1 d1 b2 d2) s (fun t =>
        edited t ∧ SameOutside s t a1 n ∧ t.psw = { s.psw with cc := t.psw.cc } ∧ Frame [1] [] s t ∧
        (m = n → getReg t 1 =
          match (p n).mark with
          | none => getReg s 1
          | some x => (getReg s 1).extractLsb' 24 8 ++ x))

/-- Invalid decimal codes (R478), and a multiplicand without room for the product (R506): the operation still completes;
whatever its result bytes, its result register and its condition code are, nothing else changes (that the pattern of ED
and EDMK and the condition code of MP and DP are among them is the model's reading, log 9). -/
def Obligations.InvalidDecimalCodes : Prop :=
  ∀ (s : State) (l : Byte) (l1 l2 r1 x2 b1 b2 : RegNum) (d1 d2 : Disp),
    let a1 := ea s b1 d1
    let L1 := l1.toNat + 1
    let u := decField (readField s a1 L1)
    let v := decField (readField s (ea s b2 d2) (l2.toNat + 1))
    let fieldOnly (i : Instr) : Prop := Gives i s fun t =>
      SameOutside s t a1 L1 ∧ (∃ c, t.psw = { s.psw with cc := c }) ∧ Frame [] [] s t
    (v.valid = false → fieldOnly (.zap l1 l2 b1 d1 b2 d2)) ∧
    (u.valid = false ∨ v.valid = false →
      fieldOnly (.ap l1 l2 b1 d1 b2 d2) ∧ fieldOnly (.sp l1 l2 b1 d1 b2 d2) ∧
      (∃ c, SetsCc (.cp l1 l2 b1 d1 b2 d2) s c) ∧
      (l2.toNat < 8 → l2.toNat < l1.toNat →
        fieldOnly (.mp l1 l2 b1 d1 b2 d2) ∧ fieldOnly (.dp l1 l2 b1 d1 b2 d2))) ∧
    (l2.toNat < 8 → l2.toNat < l1.toNat → u.valid = true → v.valid = true →
      10 ^ (2 * (l1.toNat - l2.toNat) - 1) ≤ u.mag → fieldOnly (.mp l1 l2 b1 d1 b2 d2)) ∧
    (u.valid = false ∨ 9 < l2.toNat → fieldOnly (.srp l1 l2 b1 d1 b2 d2)) ∧
    ((edit s a1 (l.toNat + 1) (ea s b2 d2)).bad = true →
      Gives (.ed l b1 d1 b2 d2) s (fun t =>
        SameOutside s t a1 (l.toNat + 1) ∧ (∃ c, t.psw = { s.psw with cc := c }) ∧ Frame [] [] s t) ∧
      Gives (.edmk l b1 d1 b2 d2) s (fun t =>
        SameOutside s t a1 (l.toNat + 1) ∧ (∃ c, t.psw = { s.psw with cc := c }) ∧ Frame [1] [] s t)) ∧
    ((decField (readField s (eax s x2 b2 d2) 8)).valid = false →
      ∃ w c, SetsRegCc (.cvb r1 x2 b2 d2) s r1 w c)

/-! ## The interval timer -/

/-- The timer tick (R580): the word at 80 goes down by 256, modulo 2^32; crossing from non-negative to negative makes
the request pending, and no tick clears it; nothing else changes. -/
def Obligations.TimerTickCounts : Prop :=
  ∀ s : State, memoryCanonical s = true →
    let t := timerTick s
    let old := (read32 s 80).toInt
    read32 t 80 = read32 s 80 - 256 ∧
    (t.timerPending = true ↔ s.timerPending = true ∨ (0 ≤ old ∧ (read32 t 80).toInt < 0)) ∧
    SameOutside s t 80 4 ∧ t.psw = s.psw ∧ SameRegsBut [] s t ∧ SameFprsBut [] s t ∧
    SameControl { s with timerPending := t.timerPending } t

/-- The delivery of the timer's request (R572, R574, R580): pending, enabled, first in the queue, with the dead time
over or the CPU waiting, and a new PSW that loads, the boundary check makes the external interruption with code
hexadecimal 80, clears the request, restarts the dead time and drops the timer from the queue. -/
def Obligations.TimerInterruptDelivered : Prop :=
  ∀ s : State, memoryCanonical s = true → s.result = .budget → s.queue = [] → (∀ d ∈ s.devices, d.async = false) →
    s.timerPending = true → s.psw.sm.getLsbD 0 = true →
    (s.psw.w = true ∨ Config.insnsBeforeInterrupt ≤ s.sinceIrq) → pswLoads s 88 →
    let t := boundaryCheck s
    t.psw = pswAt s 88 s.psw.ilc ∧ t.timerPending = false ∧ t.sinceIrq = 0 ∧ t.queue = [] ∧ t.result = .budget ∧
    read64 t 24 = pswImage { s.psw with ic := 0x0080 } ∧ SameOutside s t 24 8 ∧
    SameRegsBut [] s t ∧ SameFprsBut [] s t
end

