-- ==== Sys2Proof/Laws/State.lean ====
section
/-! SUPPORT. What each named update of the state leaves in each field: one lemma per field per update. -/

namespace Sys2Proof.Machine

variable (s : State)

/-! ## setReg -/

@[simp] theorem setReg_psw (r : RegNum) (v : Word) :
    (setReg s r v).psw = s.psw := rfl
@[simp] theorem setReg_gpr (r : RegNum) (v : Word) :
    (setReg s r v).gpr = s.gpr.set r.toNat v r.isLt := rfl
@[simp] theorem setReg_fpr (r : RegNum) (v : Word) :
    (setReg s r v).fpr = s.fpr := rfl
@[simp] theorem setReg_mem (r : RegNum) (v : Word) :
    (setReg s r v).mem = s.mem := rfl
@[simp] theorem setReg_keys (r : RegNum) (v : Word) :
    (setReg s r v).keys = s.keys := rfl
@[simp] theorem setReg_queue (r : RegNum) (v : Word) :
    (setReg s r v).queue = s.queue := rfl
@[simp] theorem setReg_sinceIrq (r : RegNum) (v : Word) :
    (setReg s r v).sinceIrq = s.sinceIrq := rfl
@[simp] theorem setReg_timerPending (r : RegNum) (v : Word) :
    (setReg s r v).timerPending = s.timerPending := rfl
@[simp] theorem setReg_lastClock (r : RegNum) (v : Word) :
    (setReg s r v).lastClock = s.lastClock := rfl
@[simp] theorem setReg_record (r : RegNum) (v : Word) :
    (setReg s r v).record = s.record := rfl
@[simp] theorem setReg_exTarget (r : RegNum) (v : Word) :
    (setReg s r v).exTarget = s.exTarget := rfl
@[simp] theorem setReg_halt (r : RegNum) (v : Word) :
    (setReg s r v).halt = s.halt := rfl
@[simp] theorem setReg_result (r : RegNum) (v : Word) :
    (setReg s r v).result = s.result := rfl
@[simp] theorem setReg_devices (r : RegNum) (v : Word) :
    (setReg s r v).devices = s.devices := rfl
@[simp] theorem setReg_clockReads (r : RegNum) (v : Word) :
    (setReg s r v).clockReads = s.clockReads := rfl
@[simp] theorem setReg_statusDraws (r : RegNum) (v : Word) :
    (setReg s r v).statusDraws = s.statusDraws := rfl
@[simp] theorem readByte_setReg (r : RegNum) (v : Word) (x : Addr) :
    readByte (setReg s r v) x = readByte s x := rfl
@[simp] theorem readKey_setReg (r : RegNum) (v : Word) (x : BitVec 13) :
    readKey (setReg s r v) x = readKey s x := rfl

/-! ## setCc -/

@[simp] theorem setCc_psw (c : CC) :
    (setCc s c).psw = { s.psw with cc := c } := rfl
@[simp] theorem setCc_gpr (c : CC) :
    (setCc s c).gpr = s.gpr := rfl
@[simp] theorem setCc_fpr (c : CC) :
    (setCc s c).fpr = s.fpr := rfl
@[simp] theorem setCc_mem (c : CC) :
    (setCc s c).mem = s.mem := rfl
@[simp] theorem setCc_keys (c : CC) :
    (setCc s c).keys = s.keys := rfl
@[simp] theorem setCc_queue (c : CC) :
    (setCc s c).queue = s.queue := rfl
@[simp] theorem setCc_sinceIrq (c : CC) :
    (setCc s c).sinceIrq = s.sinceIrq := rfl
@[simp] theorem setCc_timerPending (c : CC) :
    (setCc s c).timerPending = s.timerPending := rfl
@[simp] theorem setCc_lastClock (c : CC) :
    (setCc s c).lastClock = s.lastClock := rfl
@[simp] theorem setCc_record (c : CC) :
    (setCc s c).record = s.record := rfl
@[simp] theorem setCc_exTarget (c : CC) :
    (setCc s c).exTarget = s.exTarget := rfl
@[simp] theorem setCc_halt (c : CC) :
    (setCc s c).halt = s.halt := rfl
@[simp] theorem setCc_result (c : CC) :
    (setCc s c).result = s.result := rfl
@[simp] theorem setCc_devices (c : CC) :
    (setCc s c).devices = s.devices := rfl
@[simp] theorem setCc_clockReads (c : CC) :
    (setCc s c).clockReads = s.clockReads := rfl
@[simp] theorem setCc_statusDraws (c : CC) :
    (setCc s c).statusDraws = s.statusDraws := rfl
@[simp] theorem getReg_setCc (c : CC) (q : RegNum) :
    getReg (setCc s c) q = getReg s q := rfl
@[simp] theorem readByte_setCc (c : CC) (x : Addr) :
    readByte (setCc s c) x = readByte s x := rfl
@[simp] theorem readKey_setCc (c : CC) (x : BitVec 13) :
    readKey (setCc s c) x = readKey s x := rfl

/-! ## setPc -/

@[simp] theorem setPc_psw (a : Addr) :
    (setPc s a).psw = { s.psw with pc := a } := rfl
@[simp] theorem setPc_gpr (a : Addr) :
    (setPc s a).gpr = s.gpr := rfl
@[simp] theorem setPc_fpr (a : Addr) :
    (setPc s a).fpr = s.fpr := rfl
@[simp] theorem setPc_mem (a : Addr) :
    (setPc s a).mem = s.mem := rfl
@[simp] theorem setPc_keys (a : Addr) :
    (setPc s a).keys = s.keys := rfl
@[simp] theorem setPc_queue (a : Addr) :
    (setPc s a).queue = s.queue := rfl
@[simp] theorem setPc_sinceIrq (a : Addr) :
    (setPc s a).sinceIrq = s.sinceIrq := rfl
@[simp] theorem setPc_timerPending (a : Addr) :
    (setPc s a).timerPending = s.timerPending := rfl
@[simp] theorem setPc_lastClock (a : Addr) :
    (setPc s a).lastClock = s.lastClock := rfl
@[simp] theorem setPc_record (a : Addr) :
    (setPc s a).record = s.record := rfl
@[simp] theorem setPc_exTarget (a : Addr) :
    (setPc s a).exTarget = s.exTarget := rfl
@[simp] theorem setPc_halt (a : Addr) :
    (setPc s a).halt = s.halt := rfl
@[simp] theorem setPc_result (a : Addr) :
    (setPc s a).result = s.result := rfl
@[simp] theorem setPc_devices (a : Addr) :
    (setPc s a).devices = s.devices := rfl
@[simp] theorem setPc_clockReads (a : Addr) :
    (setPc s a).clockReads = s.clockReads := rfl
@[simp] theorem setPc_statusDraws (a : Addr) :
    (setPc s a).statusDraws = s.statusDraws := rfl
@[simp] theorem getReg_setPc (a : Addr) (q : RegNum) :
    getReg (setPc s a) q = getReg s q := rfl
@[simp] theorem readByte_setPc (a : Addr) (x : Addr) :
    readByte (setPc s a) x = readByte s x := rfl
@[simp] theorem readKey_setPc (a : Addr) (x : BitVec 13) :
    readKey (setPc s a) x = readKey s x := rfl

/-! ## setPm -/

@[simp] theorem setPm_psw (m : BitVec 4) :
    (setPm s m).psw = { s.psw with pm := m } := rfl
@[simp] theorem setPm_gpr (m : BitVec 4) :
    (setPm s m).gpr = s.gpr := rfl
@[simp] theorem setPm_fpr (m : BitVec 4) :
    (setPm s m).fpr = s.fpr := rfl
@[simp] theorem setPm_mem (m : BitVec 4) :
    (setPm s m).mem = s.mem := rfl
@[simp] theorem setPm_keys (m : BitVec 4) :
    (setPm s m).keys = s.keys := rfl
@[simp] theorem setPm_queue (m : BitVec 4) :
    (setPm s m).queue = s.queue := rfl
@[simp] theorem setPm_sinceIrq (m : BitVec 4) :
    (setPm s m).sinceIrq = s.sinceIrq := rfl
@[simp] theorem setPm_timerPending (m : BitVec 4) :
    (setPm s m).timerPending = s.timerPending := rfl
@[simp] theorem setPm_lastClock (m : BitVec 4) :
    (setPm s m).lastClock = s.lastClock := rfl
@[simp] theorem setPm_record (m : BitVec 4) :
    (setPm s m).record = s.record := rfl
@[simp] theorem setPm_exTarget (m : BitVec 4) :
    (setPm s m).exTarget = s.exTarget := rfl
@[simp] theorem setPm_halt (m : BitVec 4) :
    (setPm s m).halt = s.halt := rfl
@[simp] theorem setPm_result (m : BitVec 4) :
    (setPm s m).result = s.result := rfl
@[simp] theorem setPm_devices (m : BitVec 4) :
    (setPm s m).devices = s.devices := rfl
@[simp] theorem setPm_clockReads (m : BitVec 4) :
    (setPm s m).clockReads = s.clockReads := rfl
@[simp] theorem setPm_statusDraws (m : BitVec 4) :
    (setPm s m).statusDraws = s.statusDraws := rfl
@[simp] theorem getReg_setPm (m : BitVec 4) (q : RegNum) :
    getReg (setPm s m) q = getReg s q := rfl
@[simp] theorem readByte_setPm (m : BitVec 4) (x : Addr) :
    readByte (setPm s m) x = readByte s x := rfl
@[simp] theorem readKey_setPm (m : BitVec 4) (x : BitVec 13) :
    readKey (setPm s m) x = readKey s x := rfl

/-! ## setSm -/

@[simp] theorem setSm_psw (m : BitVec 8) :
    (setSm s m).psw = { s.psw with sm := m } := rfl
@[simp] theorem setSm_gpr (m : BitVec 8) :
    (setSm s m).gpr = s.gpr := rfl
@[simp] theorem setSm_fpr (m : BitVec 8) :
    (setSm s m).fpr = s.fpr := rfl
@[simp] theorem setSm_mem (m : BitVec 8) :
    (setSm s m).mem = s.mem := rfl
@[simp] theorem setSm_keys (m : BitVec 8) :
    (setSm s m).keys = s.keys := rfl
@[simp] theorem setSm_queue (m : BitVec 8) :
    (setSm s m).queue = s.queue := rfl
@[simp] theorem setSm_sinceIrq (m : BitVec 8) :
    (setSm s m).sinceIrq = s.sinceIrq := rfl
@[simp] theorem setSm_timerPending (m : BitVec 8) :
    (setSm s m).timerPending = s.timerPending := rfl
@[simp] theorem setSm_lastClock (m : BitVec 8) :
    (setSm s m).lastClock = s.lastClock := rfl
@[simp] theorem setSm_record (m : BitVec 8) :
    (setSm s m).record = s.record := rfl
@[simp] theorem setSm_exTarget (m : BitVec 8) :
    (setSm s m).exTarget = s.exTarget := rfl
@[simp] theorem setSm_halt (m : BitVec 8) :
    (setSm s m).halt = s.halt := rfl
@[simp] theorem setSm_result (m : BitVec 8) :
    (setSm s m).result = s.result := rfl
@[simp] theorem setSm_devices (m : BitVec 8) :
    (setSm s m).devices = s.devices := rfl
@[simp] theorem setSm_clockReads (m : BitVec 8) :
    (setSm s m).clockReads = s.clockReads := rfl
@[simp] theorem setSm_statusDraws (m : BitVec 8) :
    (setSm s m).statusDraws = s.statusDraws := rfl
@[simp] theorem getReg_setSm (m : BitVec 8) (q : RegNum) :
    getReg (setSm s m) q = getReg s q := rfl
@[simp] theorem readByte_setSm (m : BitVec 8) (x : Addr) :
    readByte (setSm s m) x = readByte s x := rfl
@[simp] theorem readKey_setSm (m : BitVec 8) (x : BitVec 13) :
    readKey (setSm s m) x = readKey s x := rfl

/-! ## setIc -/

@[simp] theorem setIc_psw (c : BitVec 16) :
    (setIc s c).psw = { s.psw with ic := c } := rfl
@[simp] theorem setIc_gpr (c : BitVec 16) :
    (setIc s c).gpr = s.gpr := rfl
@[simp] theorem setIc_fpr (c : BitVec 16) :
    (setIc s c).fpr = s.fpr := rfl
@[simp] theorem setIc_mem (c : BitVec 16) :
    (setIc s c).mem = s.mem := rfl
@[simp] theorem setIc_keys (c : BitVec 16) :
    (setIc s c).keys = s.keys := rfl
@[simp] theorem setIc_queue (c : BitVec 16) :
    (setIc s c).queue = s.queue := rfl
@[simp] theorem setIc_sinceIrq (c : BitVec 16) :
    (setIc s c).sinceIrq = s.sinceIrq := rfl
@[simp] theorem setIc_timerPending (c : BitVec 16) :
    (setIc s c).timerPending = s.timerPending := rfl
@[simp] theorem setIc_lastClock (c : BitVec 16) :
    (setIc s c).lastClock = s.lastClock := rfl
@[simp] theorem setIc_record (c : BitVec 16) :
    (setIc s c).record = s.record := rfl
@[simp] theorem setIc_exTarget (c : BitVec 16) :
    (setIc s c).exTarget = s.exTarget := rfl
@[simp] theorem setIc_halt (c : BitVec 16) :
    (setIc s c).halt = s.halt := rfl
@[simp] theorem setIc_result (c : BitVec 16) :
    (setIc s c).result = s.result := rfl
@[simp] theorem setIc_devices (c : BitVec 16) :
    (setIc s c).devices = s.devices := rfl
@[simp] theorem setIc_clockReads (c : BitVec 16) :
    (setIc s c).clockReads = s.clockReads := rfl
@[simp] theorem setIc_statusDraws (c : BitVec 16) :
    (setIc s c).statusDraws = s.statusDraws := rfl
@[simp] theorem getReg_setIc (c : BitVec 16) (q : RegNum) :
    getReg (setIc s c) q = getReg s q := rfl
@[simp] theorem readByte_setIc (c : BitVec 16) (x : Addr) :
    readByte (setIc s c) x = readByte s x := rfl
@[simp] theorem readKey_setIc (c : BitVec 16) (x : BitVec 13) :
    readKey (setIc s c) x = readKey s x := rfl

/-! ## setIlc -/

@[simp] theorem setIlc_psw (n : BitVec 2) :
    (setIlc s n).psw = { s.psw with ilc := n } := rfl
@[simp] theorem setIlc_gpr (n : BitVec 2) :
    (setIlc s n).gpr = s.gpr := rfl
@[simp] theorem setIlc_fpr (n : BitVec 2) :
    (setIlc s n).fpr = s.fpr := rfl
@[simp] theorem setIlc_mem (n : BitVec 2) :
    (setIlc s n).mem = s.mem := rfl
@[simp] theorem setIlc_keys (n : BitVec 2) :
    (setIlc s n).keys = s.keys := rfl
@[simp] theorem setIlc_queue (n : BitVec 2) :
    (setIlc s n).queue = s.queue := rfl
@[simp] theorem setIlc_sinceIrq (n : BitVec 2) :
    (setIlc s n).sinceIrq = s.sinceIrq := rfl
@[simp] theorem setIlc_timerPending (n : BitVec 2) :
    (setIlc s n).timerPending = s.timerPending := rfl
@[simp] theorem setIlc_lastClock (n : BitVec 2) :
    (setIlc s n).lastClock = s.lastClock := rfl
@[simp] theorem setIlc_record (n : BitVec 2) :
    (setIlc s n).record = s.record := rfl
@[simp] theorem setIlc_exTarget (n : BitVec 2) :
    (setIlc s n).exTarget = s.exTarget := rfl
@[simp] theorem setIlc_halt (n : BitVec 2) :
    (setIlc s n).halt = s.halt := rfl
@[simp] theorem setIlc_result (n : BitVec 2) :
    (setIlc s n).result = s.result := rfl
@[simp] theorem setIlc_devices (n : BitVec 2) :
    (setIlc s n).devices = s.devices := rfl
@[simp] theorem setIlc_clockReads (n : BitVec 2) :
    (setIlc s n).clockReads = s.clockReads := rfl
@[simp] theorem setIlc_statusDraws (n : BitVec 2) :
    (setIlc s n).statusDraws = s.statusDraws := rfl
@[simp] theorem getReg_setIlc (n : BitVec 2) (q : RegNum) :
    getReg (setIlc s n) q = getReg s q := rfl
@[simp] theorem readByte_setIlc (n : BitVec 2) (x : Addr) :
    readByte (setIlc s n) x = readByte s x := rfl
@[simp] theorem readKey_setIlc (n : BitVec 2) (x : BitVec 13) :
    readKey (setIlc s n) x = readKey s x := rfl

/-! ## setResult -/

@[simp] theorem setResult_psw (e : ExecResult) :
    (setResult s e).psw = s.psw := rfl
@[simp] theorem setResult_gpr (e : ExecResult) :
    (setResult s e).gpr = s.gpr := rfl
@[simp] theorem setResult_fpr (e : ExecResult) :
    (setResult s e).fpr = s.fpr := rfl
@[simp] theorem setResult_mem (e : ExecResult) :
    (setResult s e).mem = s.mem := rfl
@[simp] theorem setResult_keys (e : ExecResult) :
    (setResult s e).keys = s.keys := rfl
@[simp] theorem setResult_queue (e : ExecResult) :
    (setResult s e).queue = s.queue := rfl
@[simp] theorem setResult_sinceIrq (e : ExecResult) :
    (setResult s e).sinceIrq = s.sinceIrq := rfl
@[simp] theorem setResult_timerPending (e : ExecResult) :
    (setResult s e).timerPending = s.timerPending := rfl
@[simp] theorem setResult_lastClock (e : ExecResult) :
    (setResult s e).lastClock = s.lastClock := rfl
@[simp] theorem setResult_record (e : ExecResult) :
    (setResult s e).record = s.record := rfl
@[simp] theorem setResult_exTarget (e : ExecResult) :
    (setResult s e).exTarget = s.exTarget := rfl
@[simp] theorem setResult_halt (e : ExecResult) :
    (setResult s e).halt = s.halt := rfl
@[simp] theorem setResult_result (e : ExecResult) :
    (setResult s e).result = e := rfl
@[simp] theorem setResult_devices (e : ExecResult) :
    (setResult s e).devices = s.devices := rfl
@[simp] theorem setResult_clockReads (e : ExecResult) :
    (setResult s e).clockReads = s.clockReads := rfl
@[simp] theorem setResult_statusDraws (e : ExecResult) :
    (setResult s e).statusDraws = s.statusDraws := rfl
@[simp] theorem getReg_setResult (e : ExecResult) (q : RegNum) :
    getReg (setResult s e) q = getReg s q := rfl
@[simp] theorem readByte_setResult (e : ExecResult) (x : Addr) :
    readByte (setResult s e) x = readByte s x := rfl
@[simp] theorem readKey_setResult (e : ExecResult) (x : BitVec 13) :
    readKey (setResult s e) x = readKey s x := rfl

/-! ## writeByte -/

@[simp] theorem writeByte_psw (a : Addr) (v : Byte) :
    (writeByte s a v).psw = s.psw := rfl
@[simp] theorem writeByte_gpr (a : Addr) (v : Byte) :
    (writeByte s a v).gpr = s.gpr := rfl
@[simp] theorem writeByte_fpr (a : Addr) (v : Byte) :
    (writeByte s a v).fpr = s.fpr := rfl
@[simp] theorem writeByte_mem (a : Addr) (v : Byte) :
    (writeByte s a v).mem = Memory.write s.mem a.toNat v := rfl
@[simp] theorem writeByte_keys (a : Addr) (v : Byte) :
    (writeByte s a v).keys = s.keys := rfl
@[simp] theorem writeByte_queue (a : Addr) (v : Byte) :
    (writeByte s a v).queue = s.queue := rfl
@[simp] theorem writeByte_sinceIrq (a : Addr) (v : Byte) :
    (writeByte s a v).sinceIrq = s.sinceIrq := rfl
@[simp] theorem writeByte_timerPending (a : Addr) (v : Byte) :
    (writeByte s a v).timerPending = s.timerPending := rfl
@[simp] theorem writeByte_lastClock (a : Addr) (v : Byte) :
    (writeByte s a v).lastClock = s.lastClock := rfl
@[simp] theorem writeByte_record (a : Addr) (v : Byte) :
    (writeByte s a v).record = s.record := rfl
@[simp] theorem writeByte_exTarget (a : Addr) (v : Byte) :
    (writeByte s a v).exTarget = s.exTarget := rfl
@[simp] theorem writeByte_halt (a : Addr) (v : Byte) :
    (writeByte s a v).halt = s.halt := rfl
@[simp] theorem writeByte_result (a : Addr) (v : Byte) :
    (writeByte s a v).result = s.result := rfl
@[simp] theorem writeByte_devices (a : Addr) (v : Byte) :
    (writeByte s a v).devices = s.devices := rfl
@[simp] theorem writeByte_clockReads (a : Addr) (v : Byte) :
    (writeByte s a v).clockReads = s.clockReads := rfl
@[simp] theorem writeByte_statusDraws (a : Addr) (v : Byte) :
    (writeByte s a v).statusDraws = s.statusDraws := rfl
@[simp] theorem getReg_writeByte (a : Addr) (v : Byte) (q : RegNum) :
    getReg (writeByte s a v) q = getReg s q := rfl
@[simp] theorem readKey_writeByte (a : Addr) (v : Byte) (x : BitVec 13) :
    readKey (writeByte s a v) x = readKey s x := rfl

/-! ## writeKey -/

@[simp] theorem writeKey_psw (p : BitVec 13) (v : Byte) :
    (writeKey s p v).psw = s.psw := rfl
@[simp] theorem writeKey_gpr (p : BitVec 13) (v : Byte) :
    (writeKey s p v).gpr = s.gpr := rfl
@[simp] theorem writeKey_fpr (p : BitVec 13) (v : Byte) :
    (writeKey s p v).fpr = s.fpr := rfl
@[simp] theorem writeKey_mem (p : BitVec 13) (v : Byte) :
    (writeKey s p v).mem = s.mem := rfl
@[simp] theorem writeKey_keys (p : BitVec 13) (v : Byte) :
    (writeKey s p v).keys = Memory.write s.keys p.toNat v := rfl
@[simp] theorem writeKey_queue (p : BitVec 13) (v : Byte) :
    (writeKey s p v).queue = s.queue := rfl
@[simp] theorem writeKey_sinceIrq (p : BitVec 13) (v : Byte) :
    (writeKey s p v).sinceIrq = s.sinceIrq := rfl
@[simp] theorem writeKey_timerPending (p : BitVec 13) (v : Byte) :
    (writeKey s p v).timerPending = s.timerPending := rfl
@[simp] theorem writeKey_lastClock (p : BitVec 13) (v : Byte) :
    (writeKey s p v).lastClock = s.lastClock := rfl
@[simp] theorem writeKey_record (p : BitVec 13) (v : Byte) :
    (writeKey s p v).record = s.record := rfl
@[simp] theorem writeKey_exTarget (p : BitVec 13) (v : Byte) :
    (writeKey s p v).exTarget = s.exTarget := rfl
@[simp] theorem writeKey_halt (p : BitVec 13) (v : Byte) :
    (writeKey s p v).halt = s.halt := rfl
@[simp] theorem writeKey_result (p : BitVec 13) (v : Byte) :
    (writeKey s p v).result = s.result := rfl
@[simp] theorem writeKey_devices (p : BitVec 13) (v : Byte) :
    (writeKey s p v).devices = s.devices := rfl
@[simp] theorem writeKey_clockReads (p : BitVec 13) (v : Byte) :
    (writeKey s p v).clockReads = s.clockReads := rfl
@[simp] theorem writeKey_statusDraws (p : BitVec 13) (v : Byte) :
    (writeKey s p v).statusDraws = s.statusDraws := rfl
@[simp] theorem getReg_writeKey (p : BitVec 13) (v : Byte) (q : RegNum) :
    getReg (writeKey s p v) q = getReg s q := rfl
@[simp] theorem readByte_writeKey (p : BitVec 13) (v : Byte) (x : Addr) :
    readByte (writeKey s p v) x = readByte s x := rfl

/-! ## setFpr -/

@[simp] theorem setFpr_psw (r : FReg) (v : FloatValue) :
    (setFpr s r v).psw = s.psw := by cases r <;> rfl
@[simp] theorem setFpr_gpr (r : FReg) (v : FloatValue) :
    (setFpr s r v).gpr = s.gpr := by cases r <;> rfl
@[simp] theorem setFpr_mem (r : FReg) (v : FloatValue) :
    (setFpr s r v).mem = s.mem := by cases r <;> rfl
@[simp] theorem setFpr_keys (r : FReg) (v : FloatValue) :
    (setFpr s r v).keys = s.keys := by cases r <;> rfl
@[simp] theorem setFpr_queue (r : FReg) (v : FloatValue) :
    (setFpr s r v).queue = s.queue := by cases r <;> rfl
@[simp] theorem setFpr_sinceIrq (r : FReg) (v : FloatValue) :
    (setFpr s r v).sinceIrq = s.sinceIrq := by cases r <;> rfl
@[simp] theorem setFpr_timerPending (r : FReg) (v : FloatValue) :
    (setFpr s r v).timerPending = s.timerPending := by cases r <;> rfl
@[simp] theorem setFpr_lastClock (r : FReg) (v : FloatValue) :
    (setFpr s r v).lastClock = s.lastClock := by cases r <;> rfl
@[simp] theorem setFpr_record (r : FReg) (v : FloatValue) :
    (setFpr s r v).record = s.record := by cases r <;> rfl
@[simp] theorem setFpr_exTarget (r : FReg) (v : FloatValue) :
    (setFpr s r v).exTarget = s.exTarget := by cases r <;> rfl
@[simp] theorem setFpr_halt (r : FReg) (v : FloatValue) :
    (setFpr s r v).halt = s.halt := by cases r <;> rfl
@[simp] theorem setFpr_result (r : FReg) (v : FloatValue) :
    (setFpr s r v).result = s.result := by cases r <;> rfl
@[simp] theorem setFpr_devices (r : FReg) (v : FloatValue) :
    (setFpr s r v).devices = s.devices := by cases r <;> rfl
@[simp] theorem setFpr_clockReads (r : FReg) (v : FloatValue) :
    (setFpr s r v).clockReads = s.clockReads := by cases r <;> rfl
@[simp] theorem setFpr_statusDraws (r : FReg) (v : FloatValue) :
    (setFpr s r v).statusDraws = s.statusDraws := by cases r <;> rfl
@[simp] theorem getReg_setFpr (r : FReg) (v : FloatValue) (q : RegNum) :
    getReg (setFpr s r v) q = getReg s q := by cases r <;> rfl
@[simp] theorem readByte_setFpr (r : FReg) (v : FloatValue) (x : Addr) :
    readByte (setFpr s r v) x = readByte s x := by cases r <;> rfl
@[simp] theorem readKey_setFpr (r : FReg) (v : FloatValue) (x : BitVec 13) :
    readKey (setFpr s r v) x = readKey s x := by cases r <;> rfl

/-! ## Floating-point registers -/

/-- Reading a floating-point register depends on the register file alone. -/
theorem getFpr_congr {s t : State} (h : t.fpr = s.fpr) (f : FReg) : getFpr t f = getFpr s f := by
  cases f <;> simp [getFpr, h]

/-- A write of a floating-point register is read back there and nowhere else. -/
@[simp] theorem getFpr_setFpr (r q : FReg) (v : FloatValue) :
    getFpr (setFpr s r v) q = if q = r then v else getFpr s q := by
  cases r <;> cases q <;> rfl

/-! ## General registers -/

/-- Reading a general register depends on the register file alone. -/
theorem getReg_congr {s t : State} (h : t.gpr = s.gpr) (r : RegNum) : getReg t r = getReg s r := by
  simp [getReg, h]

/-- A write of a general register is read back there and nowhere else. -/
@[simp] theorem getReg_setReg (r q : RegNum) (v : Word) :
    getReg (setReg s r v) q = if q = r then v else getReg s q := by
  unfold getReg setReg
  simp only [Vector.getElem_set]
  by_cases h : q = r
  · simp [h]
  · have : r.toNat ≠ q.toNat := fun e => h (BitVec.eq_of_toNat_eq e.symm)
    simp [h, this]

/-- A register and the next one are different registers. -/
theorem succ_ne (r : RegNum) : r + 1 ≠ r := by decide +revert

/-- Two states that agree on every register have the same register file. -/
theorem gpr_ext {s t : State} (h : ∀ r, getReg t r = getReg s r) : t.gpr = s.gpr := by
  apply Vector.ext
  intro k hk
  have := h (BitVec.ofNat 4 k)
  simpa [getReg, Nat.mod_eq_of_lt hk] using this

/-! ## The reset state -/

@[simp] theorem resetWith_mem (m k : Memory) : (State.resetWith m k).mem = m := rfl
@[simp] theorem resetWith_keys (m k : Memory) : (State.resetWith m k).keys = k := rfl
@[simp] theorem resetWith_psw (m k : Memory) : (State.resetWith m k).psw = PSW.reset := rfl
@[simp] theorem resetWith_queue (m k : Memory) : (State.resetWith m k).queue = [] := rfl

/-- Two reset states differ in the contents of memory and keys alone. -/
theorem resetWith_eq_reset (m k : Memory) : State.resetWith m k = { State.reset with mem := m, keys := k } := rfl

end Sys2Proof.Machine
end

