-- ==== Sys2Proof/Laws/Memory.lean ====
section
/-! SUPPORT. Memory as canonical data: a write is read back and leaves every other key alone; every write keeps the
canonical form; two canonical memories that read the same are the same list. -/

namespace Sys2Proof.Machine

/-! ## Read after write -/

theorem Memory.read_put (a x : Nat) (v : Byte) (m : Memory) (hm : v = Config.initialByte → Memory.read m a = v) :
    Memory.read (Memory.put a v m) x = if x = a then v else Memory.read m x := by
  unfold Memory.put
  split
  · rename_i hv
    by_cases hx : x = a
    · simp [hx, hm hv]
    · simp [hx]
  · by_cases hx : x = a
    · simp [Memory.read, hx]
    · simp [Memory.read, hx, Ne.symm hx]

/-- A key below every listed key is not listed. -/
theorem Memory.read_of_rising (m : Memory) (lo x : Nat) (h : Memory.rising (some lo) m = true) (hx : x ≤ lo) :
    Memory.read m x = Config.initialByte := by
  induction m generalizing lo with
  | nil => rfl
  | cons c m ih =>
    obtain ⟨k, v⟩ := c
    simp only [Memory.rising, Bool.and_eq_true, decide_eq_true_eq] at h
    simp only [Memory.read]
    rw [if_neg (by omega)]
    exact ih k h.2 (by omega)

theorem Memory.rising_mono (m : Memory) (lo lo' : Nat) (hl : lo' ≤ lo) (h : Memory.rising (some lo) m = true) :
    Memory.rising (some lo') m = true := by
  cases m with
  | nil => rfl
  | cons c m =>
    simp only [Memory.rising, Bool.and_eq_true, decide_eq_true_eq] at h ⊢
    exact ⟨by omega, h.2⟩

theorem Memory.rising_none (m : Memory) (lo : Nat) (h : Memory.rising (some lo) m = true) :
    Memory.rising none m = true := by
  cases m with
  | nil => rfl
  | cons c m => simp only [Memory.rising, Bool.and_eq_true] at h ⊢; exact h.2

theorem Memory.rising_put (a : Nat) (v : Byte) (m : Memory) (lo : Nat) (hlo : lo < a)
    (h : Memory.rising (some a) m = true) : Memory.rising (some lo) (Memory.put a v m) = true := by
  unfold Memory.put
  split
  · exact Memory.rising_mono m a lo (by omega) h
  · simp [Memory.rising, hlo, h]

theorem Memory.rising_write (m : Memory) (a : Nat) (v : Byte) (lo : Nat) (hlo : lo < a)
    (h : Memory.rising (some lo) m = true) : Memory.rising (some lo) (Memory.write m a v) = true := by
  induction m generalizing lo with
  | nil => exact Memory.rising_put a v [] lo hlo rfl
  | cons c m ih =>
    obtain ⟨k, w⟩ := c
    simp only [Memory.rising, Bool.and_eq_true, decide_eq_true_eq] at h
    simp only [Memory.write]
    split
    · rename_i hk
      exact Memory.rising_put a v _ lo hlo (by simp [Memory.rising, hk, h.2])
    · split
      · rename_i _ hk
        exact Memory.rising_put a v m lo hlo (by rw [hk]; exact h.2)
      · simp only [Memory.rising, Bool.and_eq_true, decide_eq_true_eq]
        exact ⟨h.1, ih k (by omega) h.2⟩

theorem Memory.rising_none_write (m : Memory) (a : Nat) (v : Byte) (h : Memory.rising none m = true) :
    Memory.rising none (Memory.write m a v) = true := by
  cases m with
  | nil =>
    simp only [Memory.write, Memory.put]
    split <;> rfl
  | cons c m =>
    obtain ⟨k, w⟩ := c
    simp only [Memory.rising] at h
    simp only [Memory.write]
    split
    · rename_i hk
      unfold Memory.put
      split
      · exact h
      · simp [Memory.rising, hk, h]
    · split
      · rename_i _ hk
        unfold Memory.put
        split
        · exact Memory.rising_none m k h
        · simp only [Memory.rising]; rw [hk]; exact h
      · simp only [Memory.rising]
        exact Memory.rising_write m a v k (by omega) h

theorem Memory.read_write_some (m : Memory) (a x : Nat) (v : Byte) (lo : Nat)
    (h : Memory.rising (some lo) m = true) :
    Memory.read (Memory.write m a v) x = if x = a then v else Memory.read m x := by
  induction m generalizing lo with
  | nil => exact Memory.read_put a x v [] (fun e => by simp [Memory.read, e])
  | cons c m ih =>
    obtain ⟨k, w⟩ := c
    simp only [Memory.rising, Bool.and_eq_true, decide_eq_true_eq] at h
    simp only [Memory.write]
    split
    · rename_i hk
      refine Memory.read_put a x v _ (fun e => ?_)
      rw [Memory.read_of_rising ((k, w) :: m) a a (by simp [Memory.rising, hk, h.2]) (le_refl _), e]
    · split
      · rename_i _ hk
        rw [Memory.read_put a x v m (fun e => ?_)]
        · by_cases hx : x = a
          · simp [hx]
          · have hkx : k ≠ x := fun e => hx (by omega)
            simp [hx, Memory.read, hkx]
        · rw [Memory.read_of_rising m k a h.2 (by omega), e]
      · rename_i _ hk
        simp only [Memory.read]
        rw [ih k h.2]
        by_cases hx : x = a
        · simp [hx, Ne.symm hk]
        · simp [hx]

/-- A write of a rising memory is read back at its key and nowhere else. -/
theorem Memory.read_write (m : Memory) (a x : Nat) (v : Byte) (h : Memory.rising none m = true) :
    Memory.read (Memory.write m a v) x = if x = a then v else Memory.read m x := by
  cases m with
  | nil => exact Memory.read_write_some [] a x v 0 rfl
  | cons c m =>
    obtain ⟨k, w⟩ := c
    simp only [Memory.rising] at h
    simp only [Memory.write]
    split
    · rename_i hk
      refine Memory.read_put a x v _ (fun e => ?_)
      rw [Memory.read_of_rising ((k, w) :: m) a a (by simp [Memory.rising, hk, h]) (le_refl _), e]
    · split
      · rename_i _ hk
        rw [Memory.read_put a x v m (fun e => ?_)]
        · by_cases hx : x = a
          · simp [hx]
          · have hkx : k ≠ x := fun e => hx (by omega)
            simp [hx, Memory.read, hkx]
        · rw [Memory.read_of_rising m k a h (by omega), e]
      · rename_i _ hk
        simp only [Memory.read]
        rw [Memory.read_write_some m a x v k h]
        by_cases hx : x = a
        · simp [hx, Ne.symm hk]
        · simp [hx]

/-- A write leaves every other key alone, whatever the list. -/
theorem Memory.read_write_ne (m : Memory) (a x : Nat) (v : Byte) (hx : x ≠ a) :
    Memory.read (Memory.write m a v) x = Memory.read m x := by
  have put_ne : ∀ n : Memory, Memory.read (Memory.put a v n) x = Memory.read n x := by
    intro n
    unfold Memory.put
    split
    · rfl
    · simp [Memory.read, Ne.symm hx]
  induction m with
  | nil => exact put_ne []
  | cons c m ih =>
    obtain ⟨k, w⟩ := c
    simp only [Memory.write]
    split
    · exact put_ne _
    · split
      · rename_i _ hk
        rw [put_ne m]
        simp only [Memory.read]
        rw [if_neg (fun e => hx (by omega))]
      · simp only [Memory.read, ih]

/-! ## The canonical form -/

theorem Memory.all_write (p : Host.Cell → Bool) (m : Memory) (a : Nat) (v : Byte) (h : m.all p = true)
    (hp : v ≠ Config.initialByte → p (a, v) = true) : (Memory.write m a v).all p = true := by
  have put_all : ∀ n : Memory, n.all p = true → (Memory.put a v n).all p = true := by
    intro n hn
    unfold Memory.put
    split
    · exact hn
    · rename_i hv
      simp only [List.all_cons, hn, hp hv, Bool.and_self]
  induction m with
  | nil => exact put_all [] rfl
  | cons c m ih =>
    obtain ⟨k, w⟩ := c
    have h' := h
    simp only [List.all_cons, Bool.and_eq_true] at h'
    simp only [Memory.write]
    split
    · exact put_all _ h
    · split
      · exact put_all m h'.2
      · simp only [List.all_cons, Bool.and_eq_true]
        exact ⟨h'.1, ih h'.2⟩

/-- A write below the size keeps the canonical form. -/
theorem Memory.wf_write (size : Nat) (m : Memory) (a : Nat) (v : Byte) (ha : a < size)
    (h : Memory.wf size m = true) : Memory.wf size (Memory.write m a v) = true := by
  simp only [Memory.wf, Bool.and_eq_true] at h ⊢
  refine ⟨Memory.rising_none_write m a v h.1, Memory.all_write _ m a v h.2 (fun hv => ?_)⟩
  simp [ha, hv]

theorem Memory.wf_rising {size : Nat} {m : Memory} (h : Memory.wf size m = true) :
    Memory.rising none m = true := by
  simp only [Memory.wf, Bool.and_eq_true] at h
  exact h.1

/-- The empty memory is canonical: the reset state's memory and keys are. -/
theorem Memory.wf_nil (size : Nat) : Memory.wf size [] = true := rfl

/-! ## Canonical memories that read the same are the same -/

theorem Memory.ext_some (m n : Memory) (lo : Nat) (hm : Memory.rising (some lo) m = true)
    (hn : Memory.rising (some lo) n = true) (vm : ∀ c ∈ m, c.2 ≠ Config.initialByte)
    (vn : ∀ c ∈ n, c.2 ≠ Config.initialByte) (h : ∀ x, Memory.read m x = Memory.read n x) : m = n := by
  induction m generalizing n lo with
  | nil =>
    cases n with
    | nil => rfl
    | cons c n =>
      obtain ⟨k, w⟩ := c
      have := h k
      simp only [Memory.read, if_true] at this
      exact absurd this.symm (vn (k, w) (by simp))
  | cons c m ih =>
    obtain ⟨k, v⟩ := c
    cases n with
    | nil =>
      have := h k
      simp only [Memory.read, if_true] at this
      exact absurd this (vm (k, v) (by simp))
    | cons d n =>
      obtain ⟨j, w⟩ := d
      simp only [Memory.rising, Bool.and_eq_true, decide_eq_true_eq] at hm hn
      have hkj : k = j := by
        rcases Nat.lt_trichotomy k j with hlt | he | hlt
        · have := h k
          simp only [Memory.read, if_true] at this
          rw [if_neg (by omega), Memory.read_of_rising n j k hn.2 (by omega)] at this
          exact absurd this (vm (k, v) (by simp))
        · exact he
        · have := h j
          simp only [Memory.read, if_true] at this
          rw [if_neg (by omega), Memory.read_of_rising m k j hm.2 (by omega)] at this
          exact absurd this.symm (vn (j, w) (by simp))
      subst hkj
      have hv := h k
      simp only [Memory.read, if_true] at hv
      subst hv
      congr 1
      refine ih n k hm.2 hn.2 (fun c hc => vm c (by simp [hc])) (fun c hc => vn c (by simp [hc])) (fun x => ?_)
      by_cases hx : k = x
      · subst hx
        rw [Memory.read_of_rising m k k hm.2 (le_refl _), Memory.read_of_rising n k k hn.2 (le_refl _)]
      · have := h x
        simpa only [Memory.read, if_neg hx] using this

/-- Canonical memories that read the same at every key are equal. -/
theorem Memory.ext_of_wf (size : Nat) (m n : Memory) (hm : Memory.wf size m = true) (hn : Memory.wf size n = true)
    (h : ∀ x, Memory.read m x = Memory.read n x) : m = n := by
  simp only [Memory.wf, Bool.and_eq_true, List.all_eq_true, decide_eq_true_eq] at hm hn
  have shift : ∀ (l : Memory), Memory.rising none l = true →
      Memory.rising (some 0) (l.map fun c => (c.1 + 1, c.2)) = true := by
    intro l hl
    have go : ∀ (l : Memory) (lo : Nat), Memory.rising (some lo) l = true →
        Memory.rising (some (lo + 1)) (l.map fun c => (c.1 + 1, c.2)) = true := by
      intro l
      induction l with
      | nil => intro _ _; rfl
      | cons c l ih =>
        intro lo hlo
        simp only [Memory.rising, List.map_cons, Bool.and_eq_true, decide_eq_true_eq] at hlo ⊢
        exact ⟨by omega, ih c.1 hlo.2⟩
    cases l with
    | nil => rfl
    | cons c l =>
      simp only [Memory.rising, List.map_cons, Bool.and_eq_true, decide_eq_true_eq] at hl ⊢
      exact ⟨by omega, go l c.1 hl⟩
  have readShift : ∀ (l : Memory) (x : Nat), Memory.read (l.map fun c => (c.1 + 1, c.2)) (x + 1) = Memory.read l x := by
    intro l x
    induction l with
    | nil => rfl
    | cons c l ih => simp only [List.map_cons, Memory.read, ih, Nat.add_right_cancel_iff]
  have readZero : ∀ (l : Memory), Memory.read (l.map fun c => (c.1 + 1, c.2)) 0 = Config.initialByte := by
    intro l
    induction l with
    | nil => rfl
    | cons c l ih => simp only [List.map_cons, Memory.read, ih]; simp
  have := Memory.ext_some (m.map fun c => (c.1 + 1, c.2)) (n.map fun c => (c.1 + 1, c.2)) 0 (shift m hm.1)
    (shift n hn.1)
    (by intro c hc; obtain ⟨d, hd, rfl⟩ := List.mem_map.1 hc; exact (hm.2 d hd).2)
    (by intro c hc; obtain ⟨d, hd, rfl⟩ := List.mem_map.1 hc; exact (hn.2 d hd).2)
    (by
      intro x
      cases x with
      | zero => rw [readZero, readZero]
      | succ x => rw [readShift, readShift, h x])
  have inj : Function.Injective (fun c : Host.Cell => ((c.1 + 1, c.2) : Host.Cell)) := by
    rintro ⟨a, v⟩ ⟨b, w⟩ e
    simp only [Prod.mk.injEq, Nat.add_right_cancel_iff] at e
    simp [e.1, e.2]
  exact List.map_injective_iff.2 inj this

/-! ## Bytes of main memory -/

/-- A byte stored in canonical memory is read back there and nowhere else. -/
theorem readByte_writeByte (s : State) (a x : Addr) (v : Byte) (h : Memory.rising none s.mem = true) :
    readByte (writeByte s a v) x = if x = a then v else readByte s x := by
  unfold readByte writeByte
  rw [Memory.read_write _ _ _ _ h]
  by_cases hx : x = a
  · simp [hx]
  · have : x.toNat ≠ a.toNat := fun e => hx (BitVec.eq_of_toNat_eq e)
    simp [hx, this]

/-- A store leaves every other byte alone, whatever the memory. -/
theorem readByte_writeByte_ne (s : State) (a x : Addr) (v : Byte) (hx : x ≠ a) :
    readByte (writeByte s a v) x = readByte s x := by
  unfold readByte writeByte
  exact Memory.read_write_ne _ _ _ _ fun e => hx (BitVec.eq_of_toNat_eq e)

/-- A key stored in a canonical array is read back at its page and nowhere else. -/
theorem readKey_writeKey (s : State) (p x : BitVec 13) (v : Byte) (h : Memory.rising none s.keys = true) :
    readKey (writeKey s p v) x = if x = p then v else readKey s x := by
  unfold readKey writeKey
  rw [Memory.read_write _ _ _ _ h]
  by_cases hx : x = p
  · simp [hx]
  · have : x.toNat ≠ p.toNat := fun e => hx (BitVec.eq_of_toNat_eq e)
    simp [hx, this]

/-- Reading memory depends on the memory alone. -/
theorem readByte_congr {s t : State} (h : t.mem = s.mem) (a : Addr) : readByte t a = readByte s a := by
  simp [readByte, h]

/-- Storing a byte keeps main memory canonical. -/
theorem wf_writeByte (s : State) (a : Addr) (v : Byte) (h : Memory.wf memorySize s.mem = true) :
    Memory.wf memorySize (writeByte s a v).mem = true :=
  Memory.wf_write _ _ _ _ a.isLt h

/-- Storing a key keeps the key array canonical. -/
theorem wf_writeKey (s : State) (p : BitVec 13) (v : Byte) (h : Memory.wf keyCount s.keys = true) :
    Memory.wf keyCount (writeKey s p v).keys = true :=
  Memory.wf_write _ _ _ _ p.isLt h

end Sys2Proof.Machine
end

