-- ==== Sys2Proof/Laws/Access.lean ====
section
/-! SUPPORT. Multi-byte accesses: which bytes a store changes, what it leaves, what reads it back. -/

namespace Sys2Proof.Machine

/-! ## A store changes nothing but memory -/

/-- The second state is the first with another memory. -/
def OnlyMem (s t : State) : Prop := t = { s with mem := t.mem }

theorem OnlyMem.refl (s : State) : OnlyMem s s := rfl

theorem OnlyMem.trans {s t u : State} (h : OnlyMem s t) (k : OnlyMem t u) : OnlyMem s u := by
  unfold OnlyMem at *
  rw [k, h]

theorem onlyMem_writeByte (s : State) (a : Addr) (v : Byte) : OnlyMem s (writeByte s a v) := rfl

theorem onlyMem_writeField (bs : List Byte) (s : State) (a : Addr) : OnlyMem s (writeField s a bs) := by
  induction bs generalizing s a with
  | nil => rfl
  | cons b bs ih => exact (onlyMem_writeByte s a b).trans (ih _ _)

theorem onlyMem_writeBE (n : Nat) (s : State) (a : Addr) (v : Nat) : OnlyMem s (writeBE s a n v) := by
  induction n generalizing v with
  | zero => rfl
  | succ n ih => exact (ih _).trans (onlyMem_writeByte _ _ _)

/-! ## Address arithmetic -/

theorem addr_one : (1 : Addr).toNat = 1 := rfl

/-- The distance of `a + k` from `a`. -/
theorem offset_sub (a : Addr) (k : Nat) : (offset a k - a).toNat = k % 2 ^ 24 := by
  simp only [offset, BitVec.toNat_sub, BitVec.toNat_add, BitVec.toNat_ofNat]
  omega

/-- An address is its distance above another. -/
theorem eq_offset (a x : Addr) : x = offset a (x - a).toNat := by
  apply BitVec.eq_of_toNat_eq
  simp only [offset, BitVec.toNat_sub, BitVec.toNat_add, BitVec.toNat_ofNat]
  omega

theorem offset_zero (a : Addr) : offset a 0 = a := by simp [offset]

theorem offset_succ (a : Addr) (k : Nat) : offset (a + 1) k = offset a (k + 1) := by
  apply BitVec.eq_of_toNat_eq
  simp only [offset, BitVec.toNat_add, BitVec.toNat_ofNat, addr_one]
  omega

theorem offset_one (a : Addr) (k : Nat) : offset a k + 1 = offset a (k + 1) := by
  apply BitVec.eq_of_toNat_eq
  simp only [offset, BitVec.toNat_add, BitVec.toNat_ofNat, addr_one]
  omega

/-- The distance above the next address. -/
theorem sub_succ_toNat (a x : Addr) :
    (x - (a + 1)).toNat = if x = a then 2 ^ 24 - 1 else (x - a).toNat - 1 := by
  have e : x = a ↔ x.toNat = a.toNat := ⟨fun h => by rw [h], BitVec.eq_of_toNat_eq⟩
  simp only [e, BitVec.toNat_sub, BitVec.toNat_add, addr_one]
  have := x.isLt; have := a.isLt
  split <;> omega

theorem sub_toNat_eq_zero (a x : Addr) : (x - a).toNat = 0 ↔ x = a := by
  have e : x = a ↔ x.toNat = a.toNat := ⟨fun h => by rw [h], BitVec.eq_of_toNat_eq⟩
  simp only [e, BitVec.toNat_sub]
  have := x.isLt; have := a.isLt
  omega

theorem sub_toNat_lt (a x : Addr) : (x - a).toNat < 2 ^ 24 := (x - a).isLt

/-! ## Byte strings -/

/-- Storing a byte string keeps main memory canonical. -/
theorem wf_writeField (bs : List Byte) (s : State) (a : Addr) (h : Memory.wf memorySize s.mem = true) :
    Memory.wf memorySize (writeField s a bs).mem = true := by
  induction bs generalizing s a with
  | nil => exact h
  | cons b bs ih => exact ih _ _ (wf_writeByte s a b h)

theorem rising_writeField (bs : List Byte) (s : State) (a : Addr) (h : Memory.rising none s.mem = true) :
    Memory.rising none (writeField s a bs).mem = true := by
  induction bs generalizing s a with
  | nil => exact h
  | cons b bs ih => exact ih _ _ (Memory.rising_none_write _ _ _ h)

/-- What is read after a byte string of at most 2^24 bytes is stored. -/
theorem readByte_writeField (bs : List Byte) (s : State) (a x : Addr) (h : Memory.rising none s.mem = true)
    (hl : bs.length ≤ 2 ^ 24) :
    readByte (writeField s a bs) x = bs.getD (x - a).toNat (readByte s x) := by
  induction bs generalizing s a with
  | nil => simp [writeField]
  | cons b bs ih =>
    simp only [List.length_cons] at hl
    simp only [writeField]
    rw [ih _ _ (Memory.rising_none_write _ _ _ h) (by omega), readByte_writeByte s a x b h, sub_succ_toNat]
    by_cases hx : x = a
    · subst hx
      simp only [if_true, BitVec.sub_self, BitVec.toNat_ofNat, Nat.zero_mod, List.getD_cons_zero]
      rw [List.getD_eq_default _ _ (by omega)]
    · have h0 : (x - a).toNat ≠ 0 := fun e => hx ((sub_toNat_eq_zero a x).1 e)
      simp only [if_neg hx]
      obtain ⟨k, hk⟩ := Nat.exists_eq_succ_of_ne_zero h0
      rw [hk]
      simp

/-- A byte string leaves every byte outside it alone, whatever the memory. -/
theorem readByte_writeField_outside (bs : List Byte) (s : State) (a x : Addr) (hl : bs.length ≤ (x - a).toNat) :
    readByte (writeField s a bs) x = readByte s x := by
  induction bs generalizing s a with
  | nil => rfl
  | cons b bs ih =>
    simp only [List.length_cons] at hl
    have hx : x ≠ a := fun e => by rw [(sub_toNat_eq_zero a x).2 e] at hl; omega
    simp only [writeField]
    rw [ih _ _ (by rw [sub_succ_toNat, if_neg hx]; omega), readByte_writeByte_ne s a x b hx]

/-- Byte `k` of a field. -/
theorem readField_getElem? (n : Nat) (s : State) (a : Addr) (k : Nat) :
    (readField s a n)[k]? = if k < n then some (readByte s (offset a k)) else none := by
  induction n generalizing a k with
  | zero => simp [readField]
  | succ n ih =>
    cases k with
    | zero => simp [readField, offset_zero]
    | succ k =>
      simp only [readField, List.getElem?_cons_succ, ih, offset_succ]
      simp

@[simp] theorem readField_length (n : Nat) (s : State) (a : Addr) : (readField s a n).length = n := by
  induction n generalizing a with
  | zero => rfl
  | succ n ih => simp [readField, ih]

/-- A field reads the same in states that agree on its bytes. -/
theorem readField_congr {s t : State} (a : Addr) (n : Nat)
    (h : ∀ k < n, readByte t (offset a k) = readByte s (offset a k)) : readField t a n = readField s a n := by
  apply List.ext_getElem?
  intro k
  rw [readField_getElem?, readField_getElem?]
  split
  · rename_i hk; rw [h k hk]
  · rfl

/-- A byte string of at most 2^24 bytes is read back. -/
theorem readField_writeField (bs : List Byte) (s : State) (a : Addr) (h : Memory.rising none s.mem = true)
    (hl : bs.length ≤ 2 ^ 24) : readField (writeField s a bs) a bs.length = bs := by
  apply List.ext_getElem?
  intro k
  rw [readField_getElem?]
  split
  · rename_i hk
    rw [readByte_writeField bs s a _ h hl, offset_sub, Nat.mod_eq_of_lt (by omega),
      List.getD_eq_getElem _ _ hk, List.getElem?_eq_getElem hk]
  · rename_i hk
    rw [List.getElem?_eq_none (by omega)]

/-! ## Big-endian numbers -/

/-- Storing a number keeps main memory canonical. -/
theorem wf_writeBE (n : Nat) (s : State) (a : Addr) (v : Nat) (h : Memory.wf memorySize s.mem = true) :
    Memory.wf memorySize (writeBE s a n v).mem = true := by
  induction n generalizing v with
  | zero => exact h
  | succ n ih => exact wf_writeByte _ _ _ (ih _)

theorem rising_writeBE (n : Nat) (s : State) (a : Addr) (v : Nat) (h : Memory.rising none s.mem = true) :
    Memory.rising none (writeBE s a n v).mem = true := by
  induction n generalizing v with
  | zero => exact h
  | succ n ih => exact Memory.rising_none_write _ _ _ (ih _)

theorem readByte_writeBE_outside (n : Nat) (s : State) (a x : Addr) (v : Nat) (hl : n ≤ (x - a).toNat) :
    readByte (writeBE s a n v) x = readByte s x := by
  induction n generalizing v with
  | zero => rfl
  | succ n ih =>
    have hx : x ≠ offset a n := fun e => by
      rw [e, offset_sub] at hl
      have := Nat.mod_le n (2 ^ 24)
      omega
    simp only [writeBE]
    rw [readByte_writeByte_ne _ _ _ _ hx, ih _ (by omega)]

/-- Byte `k` of a stored number, the most significant at the lowest address. -/
theorem readByte_writeBE (n : Nat) (s : State) (a x : Addr) (v : Nat) (h : Memory.rising none s.mem = true)
    (hn : n ≤ 2 ^ 24) :
    readByte (writeBE s a n v) x =
      if (x - a).toNat < n then BitVec.ofNat 8 (v / 256 ^ (n - 1 - (x - a).toNat)) else readByte s x := by
  induction n generalizing v with
  | zero => simp [writeBE]
  | succ n ih =>
    simp only [writeBE]
    rw [readByte_writeByte _ _ _ _ (rising_writeBE n s a _ h), ih _ (by omega)]
    by_cases hx : x = offset a n
    · have : (x - a).toNat = n := by rw [hx, offset_sub, Nat.mod_eq_of_lt (by omega)]
      rw [if_pos hx, if_pos (by omega), this]
      simp
    · have hne : (x - a).toNat ≠ n := fun e => hx (by rw [← e]; exact eq_offset a x)
      rw [if_neg hx]
      by_cases hk : (x - a).toNat < n
      · rw [if_pos hk, if_pos (by omega), Nat.div_div_eq_div_mul, Nat.mul_comm, ← Nat.pow_succ]
        congr 3
        omega
      · rw [if_neg hk, if_neg (by omega)]

/-- A number reads the same in states that agree on its bytes. -/
theorem readBE_congr {s t : State} (a : Addr) (n : Nat)
    (h : ∀ k < n, readByte t (offset a k) = readByte s (offset a k)) : readBE t a n = readBE s a n := by
  induction n with
  | zero => rfl
  | succ n ih => simp only [readBE, ih fun k hk => h k (by omega), h n (by omega)]

/-- A number of at most `n` bytes is read back. -/
theorem readBE_writeBE (n : Nat) (s : State) (a : Addr) (v : Nat) (h : Memory.rising none s.mem = true)
    (hn : n ≤ 2 ^ 24) : readBE (writeBE s a n v) a n = v % 256 ^ n := by
  have low : ∀ m, m ≤ n → readBE (writeBE s a n v) a m = v / 256 ^ (n - m) % 256 ^ m := by
    intro m
    induction m with
    | zero => simp [readBE, Nat.mod_one]
    | succ m ih =>
      intro hm
      simp only [readBE]
      rw [ih (by omega), readByte_writeBE n s a _ v h hn, offset_sub, Nat.mod_eq_of_lt (show m < 2 ^ 24 by omega),
        if_pos (by omega)]
      have e : n - m = (n - (m + 1)) + 1 := by omega
      have e' : n - 1 - m = n - (m + 1) := by omega
      rw [e, e', Nat.pow_succ, ← Nat.div_div_eq_div_mul]
      generalize v / 256 ^ (n - (m + 1)) = w
      simp only [BitVec.toNat_ofNat]
      rw [show (2 : Nat) ^ 8 = 256 by norm_num, Nat.pow_succ, Nat.mul_comm (256 ^ m) 256, Nat.mod_mul]
      omega
  simpa using low n (le_refl n)

theorem readBE_lt (s : State) (a : Addr) (n : Nat) : readBE s a n < 256 ^ n := by
  induction n with
  | zero => simp [readBE]
  | succ n ih =>
    simp only [readBE, Nat.pow_succ]
    have := (readByte s (offset a n)).isLt
    omega

/-- A stored word is read back. -/
theorem read32_write32 (s : State) (a : Addr) (v : Word) (h : Memory.rising none s.mem = true) :
    read32 (write32 s a v) a = v := by
  apply BitVec.eq_of_toNat_eq
  have := v.isLt
  simp only [read32, write32, readBE_writeBE 4 s a v.toNat h (by omega), BitVec.toNat_ofNat]
  omega

/-- A stored halfword is read back. -/
theorem read16_write16 (s : State) (a : Addr) (v : Half) (h : Memory.rising none s.mem = true) :
    read16 (write16 s a v) a = v := by
  apply BitVec.eq_of_toNat_eq
  have := v.isLt
  simp only [read16, write16, readBE_writeBE 2 s a v.toNat h (by omega), BitVec.toNat_ofNat]
  omega

/-- A stored doubleword is read back. -/
theorem read64_write64 (s : State) (a : Addr) (v : DWord) (h : Memory.rising none s.mem = true) :
    read64 (write64 s a v) a = v := by
  apply BitVec.eq_of_toNat_eq
  have := v.isLt
  simp only [read64, write64, readBE_writeBE 8 s a v.toNat h (by omega), BitVec.toNat_ofNat]
  omega

end Sys2Proof.Machine
end

