-- ==== Sys2Proof/Laws/Answers.lean ====
section
/-! SUPPORT. What the shared results of the meanings answer: one lemma per form of result, for the claims about
instructions to cite. -/

namespace Sys2Proof.Machine

/-! ## Post-processing -/

theorem finish_done (s : State) : finish (done s) = .next s := rfl

theorem finish_doneCc (s : State) (c : CC) : finish (doneCc s c) = .next (setCc s c) := rfl

theorem finish_raise (s : State) (e : ProgramException) (h : suppressed s.psw.pm e = false) :
    finish (raise s e) = .next (programInterrupt s e) := by
  simp [finish, postProcess, raise, Result.withCc, h]

/-- A result without an exception: its state, with its condition code if it has one. -/
theorem finish_of_exc_none (r : Result) (h : r.exc = none) : finish r = .next r.withCc := by
  simp [finish, postProcess, h]

/-- A result whose exception is masked. -/
theorem finish_suppressed (r : Result) (e : ProgramException) (h : r.exc = some e)
    (hs : suppressed r.withCc.psw.pm e = true) : finish r = .next r.withCc := by
  simp [finish, postProcess, h, hs]

/-- A result whose exception is not masked. -/
theorem finish_interrupts (r : Result) (e : ProgramException) (h : r.exc = some e)
    (hs : suppressed r.withCc.psw.pm e = false) : finish r = .next (programInterrupt r.withCc e) := by
  simp [finish, postProcess, h, hs]

/-! ## Frames -/

@[simp] theorem sameControl_refl (s : State) : SameControl s s := by simp [SameControl]

@[simp] theorem sameMemory_refl (s : State) : SameMemory s s := fun _ => rfl

@[simp] theorem sameRegsBut_refl (rs : List RegNum) (s : State) : SameRegsBut rs s s := fun _ _ => rfl

@[simp] theorem sameFprsBut_refl (fs : List FReg) (s : State) : SameFprsBut fs s s := fun _ _ => rfl

@[simp] theorem frame_refl (rs : List RegNum) (fs : List FReg) (s : State) : Frame rs fs s s := by simp [Frame]

/-- States with the same registers, the same floating-point registers and the same control are in every frame. -/
theorem frame_of_eq (rs : List RegNum) (fs : List FReg) {s t : State} (hg : t.gpr = s.gpr) (hf : t.fpr = s.fpr)
    (hc : SameControl s t) : Frame rs fs s t :=
  ⟨fun r _ => getReg_congr hg r, fun f _ => getFpr_congr hf f, hc⟩

/-- A change of memory alone is in every frame. -/
theorem frame_of_onlyMem (rs : List RegNum) (fs : List FReg) {s t : State} (h : OnlyMem s t) : Frame rs fs s t := by
  unfold OnlyMem at h
  rw [h]
  exact frame_of_eq rs fs rfl rfl (by simp [SameControl])

/-- A change of memory and of the PSW alone is in every frame. -/
theorem frame_setCc (rs : List RegNum) (fs : List FReg) {s t : State} (c : CC) (h : Frame rs fs s t) :
    Frame rs fs s (setCc t c) := by
  obtain ⟨hr, hf, hc⟩ := h
  exact ⟨fun r hq => by simpa using hr r hq, fun f hq => (getFpr_congr rfl f).trans (hf f hq), by
    simpa [SameControl] using hc⟩

theorem frame_setReg (r : RegNum) (v : Word) (s : State) : Frame [r] [] s (setReg s r v) :=
  ⟨fun q hq => by
      have : q ≠ r := fun e => hq (by simp [e])
      simp [this], fun f _ => getFpr_congr rfl f, by simp [SameControl]⟩

theorem frame_setPair (r : RegNum) (v : DWord) (s : State) : Frame [r, r + 1] [] s (setPair s r v) :=
  ⟨fun q hq => by
      have h1 : q ≠ r := fun e => hq (by simp [e])
      have h2 : q ≠ r + 1 := fun e => hq (by simp [e])
      simp only [setPair, getReg_setReg, if_neg h1, if_neg h2], fun f _ => getFpr_congr rfl f, by simp [SameControl, setPair]⟩

theorem frame_setFpr (r : FReg) (v : FloatValue) (s : State) : Frame [] [r] s (setFpr s r v) :=
  ⟨fun q _ => by simp, fun f hf => by
      have : f ≠ r := fun e => hf (by simp [e])
      simp [this], by simp [SameControl]⟩

/-! ## Answers -/

theorem setsCc_of {i : Instr} {s : State} {c : CC} (h : exec i s = finish (doneCc s c)) : SetsCc i s c :=
  ⟨_, h.trans (finish_doneCc _ _), rfl, frame_setCc [] [] c (frame_refl [] [] s), fun _ => rfl⟩

theorem setsPc_of {i : Instr} {s : State} {a : Addr} (h : exec i s = finish (done (setPc s a))) : SetsPc i s a :=
  ⟨_, h.trans (finish_done _), rfl, frame_of_eq [] [] rfl rfl (by simp [SameControl]), fun _ => rfl⟩

theorem setsReg_of {i : Instr} {s : State} {r : RegNum} {v : Word} (h : exec i s = finish (done (setReg s r v))) :
    SetsReg i s r v :=
  ⟨_, h.trans (finish_done _), by simp, rfl, frame_setReg r v s, fun _ => rfl⟩

theorem setsRegCc_of {i : Instr} {s : State} {r : RegNum} {v : Word} {c : CC}
    (h : exec i s = finish (doneCc (setReg s r v) c)) : SetsRegCc i s r v c :=
  ⟨_, h.trans (finish_doneCc _ _), by simp, rfl, frame_setCc [r] [] c (frame_setReg r v s), fun _ => rfl⟩

theorem setsRegPc_of {i : Instr} {s : State} {r : RegNum} {v : Word} {a : Addr}
    (h : exec i s = finish (done (setPc (setReg s r v) a))) : SetsRegPc i s r v a := by
  refine ⟨_, h.trans (finish_done _), by simp, rfl, ⟨fun q hq => ?_, fun f _ => getFpr_congr rfl f, ?_⟩, fun _ => rfl⟩
  · have : q ≠ r := fun e => hq (by simp [e])
    simp [this]
  · simp [SameControl]

/-- A pair that was written is read back. -/
theorem getPair_setPair (s : State) (r : RegNum) (v : DWord) : getPair (setPair s r v) r = v := by
  have h : r ≠ r + 1 := (succ_ne r).symm
  simp only [getPair, setPair, getReg_setReg, if_neg h, if_pos]
  ext k hk
  simp only [BitVec.getElem_append, BitVec.getElem_extractLsb']
  split
  · rw [Nat.zero_add]
    exact BitVec.getLsbD_eq_getElem hk
  · rw [show 32 + (k - 32) = k by omega]
    exact BitVec.getLsbD_eq_getElem hk

theorem setsPair_of {i : Instr} {s : State} {r : RegNum} {v : DWord}
    (h : exec i s = finish (done (setPair s r v))) : SetsPair i s r v :=
  ⟨_, h.trans (finish_done _), getPair_setPair s r v, rfl, frame_setPair r v s, fun _ => rfl⟩

theorem setsPairCc_of {i : Instr} {s : State} {r : RegNum} {v : DWord} {c : CC}
    (h : exec i s = finish (doneCc (setPair s r v) c)) : SetsPairCc i s r v c :=
  ⟨_, h.trans (finish_doneCc _ _), getPair_setPair s r v, rfl, frame_setCc _ [] c (frame_setPair r v s), fun _ => rfl⟩

theorem setsFpr_of {i : Instr} {s : State} {f : FReg} {v : FloatValue}
    (h : exec i s = finish (done (setFpr s f v))) : SetsFpr i s f v :=
  ⟨_, h.trans (finish_done _), by simp, by simp, frame_setFpr f v s, fun _ => by simp⟩

theorem setsFprCc_of {i : Instr} {s : State} {f : FReg} {v : FloatValue} {c : CC}
    (h : exec i s = finish (doneCc (setFpr s f v) c)) : SetsFprCc i s f v c := by
  refine ⟨_, h.trans (finish_doneCc _ _), ?_, ?_, frame_setCc [] [f] c (frame_setFpr f v s), fun _ => ?_⟩
  · rw [getFpr_congr (s := setFpr s f v) (t := setCc (setFpr s f v) c) rfl f]
    simp
  · simp [setCc]
  · simp

theorem stores_of {i : Instr} {s : State} {a : Addr} {bs : List Byte} (hm : memoryCanonical s = true)
    (hl : bs.length ≤ 2 ^ 24) (h : exec i s = finish (done (writeField s a bs))) : Stores i s a bs := by
  simp only [memoryCanonical, Bool.and_eq_true] at hm
  refine ⟨_, h.trans (finish_done _), readField_writeField bs s a (Memory.wf_rising hm.1) hl,
    fun x hx => readByte_writeField_outside bs s a x hx, ?_, frame_of_onlyMem [] [] (onlyMem_writeField bs s a)⟩
  rw [onlyMem_writeField bs s a]

theorem storesCc_of {i : Instr} {s : State} {a : Addr} {bs : List Byte} {c : CC} (hm : memoryCanonical s = true)
    (hl : bs.length ≤ 2 ^ 24) (h : exec i s = finish (doneCc (writeField s a bs) c)) : StoresCc i s a bs c := by
  simp only [memoryCanonical, Bool.and_eq_true] at hm
  refine ⟨_, h.trans (finish_doneCc _ _), ?_, fun x hx => readByte_writeField_outside bs s a x hx, ?_,
    frame_setCc [] [] c (frame_of_onlyMem [] [] (onlyMem_writeField bs s a))⟩
  · rw [readField_congr (s := writeField s a bs) (t := setCc (writeField s a bs) c) a _ (fun k _ => rfl)]
    exact readField_writeField bs s a (Memory.wf_rising hm.1) hl
  · simp only [setCc]
    rw [onlyMem_writeField bs s a]

theorem traps_of {i : Instr} {s : State} {e : ProgramException} (hs : ∀ pm, suppressed pm e = false)
    (h : exec i s = finish (raise s e)) : Traps i s e := by
  unfold Traps
  rw [h, finish_raise s e (hs _)]

end Sys2Proof.Machine
end

