-- ==== Sys2Proof/Laws/Interrupt.lean ====
section
/-! SUPPORT. What loading a PSW, taking an interruption, post-processing and handing off can do. -/

namespace Sys2Proof.Machine

/-! ## Loading a PSW (R32) -/

/-- An image with the EC bit is refused: the PSW stays. -/
theorem loadPswImage_of_ec (s : State) (img : DWord) (h : img.getLsbD 51 = true) :
    loadPswImage s img = setResult s (.pswLoadFault .unsupportedMode) := by simp [loadPswImage, h]

/-- An image that waits with the mask zero is loaded and reported. -/
theorem loadPswImage_of_disabled (s : State) (img : DWord) (h : img.getLsbD 51 = false)
    (hw : ((pswOfImage img s.psw.ilc).w && (pswOfImage img s.psw.ilc).sm == 0) = true) :
    loadPswImage s img =
      setResult { s with psw := pswOfImage img s.psw.ilc } (.pswLoadFault .disabledWait) := by
  simp only [loadPswImage, h, Bool.false_eq_true, if_false, hw, if_true]

/-- Every other image is loaded. -/
theorem loadPswImage_of_loads (s : State) (img : DWord) (h : img.getLsbD 51 = false)
    (hw : ((pswOfImage img s.psw.ilc).w && (pswOfImage img s.psw.ilc).sm == 0) = false) :
    loadPswImage s img = { s with psw := pswOfImage img s.psw.ilc } := by
  simp only [loadPswImage, h, Bool.false_eq_true, if_false, hw]

/-- Loading a PSW changes the PSW and the result of the call, nothing else. -/
theorem loadPswImage_frame (s : State) (img : DWord) :
    loadPswImage s img =
      { s with psw := (loadPswImage s img).psw, result := (loadPswImage s img).result } := by
  by_cases h : img.getLsbD 51 = true
  · rw [loadPswImage_of_ec s img h]; rfl
  · have h' : img.getLsbD 51 = false := by simpa using h
    by_cases hw : ((pswOfImage img s.psw.ilc).w && (pswOfImage img s.psw.ilc).sm == 0) = true
    · rw [loadPswImage_of_disabled s img h' hw]; rfl
    · rw [loadPswImage_of_loads s img h' (by simpa using hw)]

theorem loadPsw_frame (s : State) (a : Addr) :
    loadPsw s a = { s with psw := (loadPsw s a).psw, result := (loadPsw s a).result } :=
  loadPswImage_frame s (read64 s a)

theorem loadPsw_mem (s : State) (a : Addr) : (loadPsw s a).mem = s.mem := by rw [loadPsw_frame]

/-! ## Storing a PSW (R31) -/

theorem onlyMem_storePsw (s : State) (a : Addr) : OnlyMem s (storePsw s a) := onlyMem_writeBE 8 s a _

theorem read64_storePsw (s : State) (a : Addr) (h : Memory.rising none s.mem = true) :
    read64 (storePsw s a) a = pswImage s.psw := read64_write64 s a _ h

theorem readByte_storePsw_outside (s : State) (a x : Addr) (h : 8 ≤ (x - a).toNat) :
    readByte (storePsw s a) x = readByte s x := readByte_writeBE_outside 8 s a x _ h

theorem wf_storePsw (s : State) (a : Addr) (h : Memory.wf memorySize s.mem = true) :
    Memory.wf memorySize (storePsw s a).mem = true := wf_writeBE 8 s a _ h

/-! ## Taking an interruption (R550, R551) -/

/-- An interruption changes the PSW, memory and the result of the call, nothing else. -/
theorem initiate_frame (s : State) (old new : Addr) (code : BitVec 16) :
    initiate s old new code =
      { s with
        psw := (initiate s old new code).psw, mem := (initiate s old new code).mem
        result := (initiate s old new code).result } := by
  conv_lhs => rw [initiate, loadPsw_frame, onlyMem_storePsw]
  rw [initiate, loadPsw_mem]
  rfl

/-- A wide store depends on the memory alone. -/
theorem mem_writeBE_congr (n : Nat) {s t : State} (a : Addr) (v : Nat) (h : s.mem = t.mem) :
    (writeBE s a n v).mem = (writeBE t a n v).mem := by
  induction n generalizing v with
  | zero => exact h
  | succ n ih => simp only [writeBE, writeByte, ih]

/-- The memory after an interruption: the PSW with the code in it, at the old location. -/
theorem initiate_mem (s : State) (old new : Addr) (code : BitVec 16) :
    (initiate s old new code).mem = (write64 s old (pswImage { s.psw with ic := code })).mem := by
  rw [initiate, loadPsw_mem]
  exact mem_writeBE_congr 8 old _ rfl

theorem wf_initiate (s : State) (old new : Addr) (code : BitVec 16) (h : Memory.wf memorySize s.mem = true) :
    Memory.wf memorySize (initiate s old new code).mem = true := by
  rw [initiate_mem]; exact wf_writeBE 8 s old _ h

theorem programInterrupt_frame (s : State) (e : ProgramException) :
    programInterrupt s e =
      { s with
        psw := (programInterrupt s e).psw, mem := (programInterrupt s e).mem
        result := (programInterrupt s e).result } := initiate_frame s 40 104 e.code

theorem wf_programInterrupt (s : State) (e : ProgramException) (h : Memory.wf memorySize s.mem = true) :
    Memory.wf memorySize (programInterrupt s e).mem = true := wf_initiate s 40 104 e.code h

/-! ## Post-processing (R146) -/

/-- Post-processing sets the condition code, and then takes at most one program interruption. -/
theorem postProcess_cases (r : Result) :
    postProcess r = r.withCc ∨ ∃ e, r.exc = some e ∧ postProcess r = programInterrupt r.withCc e := by
  cases h : r.exc with
  | none => exact .inl (by simp [postProcess, h])
  | some e =>
    by_cases hs : suppressed r.withCc.psw.pm e = true
    · exact .inl (by simp [postProcess, h, hs])
    · exact .inr ⟨e, rfl, by simp [postProcess, h, hs]⟩

theorem withCc_mem (r : Result) : r.withCc.mem = r.state.mem := by
  unfold Result.withCc; split <;> rfl

theorem withCc_keys (r : Result) : r.withCc.keys = r.state.keys := by
  unfold Result.withCc; split <;> rfl

theorem withCc_fpr (r : Result) : r.withCc.fpr = r.state.fpr := by
  unfold Result.withCc; split <;> rfl

/-- Post-processing keeps the keys, the floating-point registers, the general registers and the queue. -/
theorem postProcess_other (r : Result) :
    (postProcess r).keys = r.state.keys ∧ (postProcess r).fpr = r.state.fpr ∧
      (postProcess r).gpr = r.state.gpr ∧ (postProcess r).queue = r.state.queue ∧
      (postProcess r).exTarget = r.state.exTarget ∧ (postProcess r).sinceIrq = r.state.sinceIrq := by
  have hc : r.withCc.keys = r.state.keys ∧ r.withCc.fpr = r.state.fpr ∧ r.withCc.gpr = r.state.gpr ∧
      r.withCc.queue = r.state.queue ∧ r.withCc.exTarget = r.state.exTarget ∧
      r.withCc.sinceIrq = r.state.sinceIrq := by
    unfold Result.withCc; split <;> exact ⟨rfl, rfl, rfl, rfl, rfl, rfl⟩
  rcases postProcess_cases r with h | ⟨e, -, h⟩
  · rw [h]; exact hc
  · rw [h, programInterrupt_frame]; exact hc

/-- Post-processing keeps memory in canonical form. -/
theorem wf_postProcess (r : Result) (h : Memory.wf memorySize r.state.mem = true) :
    Memory.wf memorySize (postProcess r).mem = true := by
  have hc : Memory.wf memorySize r.withCc.mem = true := by rw [withCc_mem]; exact h
  rcases postProcess_cases r with k | ⟨e, -, k⟩ <;> rw [k]
  · exact hc
  · exact wf_programInterrupt _ e hc

/-! ## Hand-off (R148) -/

/-- A hand-off writes the record and the result of the call, nothing else. -/
theorem handOffBytes_frame (s : State) (bs : List Byte) :
    handOffBytes s bs =
      { s with record := (handOffBytes s bs).record, result := (handOffBytes s bs).result } := rfl

/-- With four bytes or more, the hand-off is that of the first four. -/
@[simp] theorem handOffBytes_cons (s : State) (b0 b1 b2 b3 : Byte) (rest : List Byte) :
    handOffBytes s (b0 :: b1 :: b2 :: b3 :: rest) = handOff s b0 b1 b2 b3 := rfl

@[simp] theorem handOff_insn (s : State) (b0 b1 b2 b3 : Byte) :
    (handOff s b0 b1 b2 b3).record.insn = b0 ++ b1 ++ b2 ++ b3 := rfl

end Sys2Proof.Machine
end

