-- ==== Sys2Proof/Laws/Shared.lean ====
section
/-! SUPPORT. What the shared results and the storage loops of the meanings can do. -/

namespace Sys2Proof.Machine

/-! ## Checks on designations -/

theorem whenEven_of_even (r : RegNum) (s : State) (k : Result) (h : r.getLsbD 0 = false) : whenEven r s k = k := by
  rw [whenEven, if_neg (by rw [h]; decide)]

theorem whenEven_of_odd (r : RegNum) (s : State) (k : Result) (h : r.getLsbD 0 = true) :
    whenEven r s k = raise s .specification := by rw [whenEven, if_pos h]

theorem withFpr_of_some (r : RegNum) (s : State) (k : FReg → Result) (f : FReg) (h : fregOf r = some f) :
    withFpr r s k = k f := by simp [withFpr, h]

theorem withFpr_of_none (r : RegNum) (s : State) (k : FReg → Result) (h : fregOf r = none) :
    withFpr r s k = raise s .specification := by simp [withFpr, h]

theorem whenAligned_of_aligned (k : Nat) (a : Addr) (s : State) (r : Result) (h : a.toNat % 2 ^ k = 0) :
    whenAligned k a s r = r := by simp [whenAligned, h]

theorem whenAligned_of_misaligned (k : Nat) (a : Addr) (s : State) (r : Result) (h : a.toNat % 2 ^ k ≠ 0) :
    whenAligned k a s r = raise s .specification := by simp [whenAligned, h]

theorem whenShorter_of_shorter (L1 L2 : Nat) (s : State) (k : Result) (h : L2 ≤ 8) (h' : L2 < L1) :
    whenShorter L1 L2 s k = k := by
  rw [whenShorter, if_neg (by omega)]

theorem whenShorter_of_not (L1 L2 : Nat) (s : State) (k : Result) (h : 8 < L2 ∨ L1 ≤ L2) :
    whenShorter L1 L2 s k = raise s .specification := by rw [whenShorter, if_pos h]

/-! ## Shared results -/

/-- Signed arithmetic in range: the register and the sign's condition code (R200 a). -/
theorem signedResult_in_range (s : State) (r : RegNum) (t : Int) (h : overflows t = false) :
    signedResult s r t = doneCc (setReg s r (BitVec.ofInt 32 t)) (ccSign t) := by
  simp [signedResult, doneCc, ccArith, h]

/-- Signed arithmetic out of range: the wrapped register, condition code 3, the overflow condition (R200 a, b). -/
theorem signedResult_overflow (s : State) (r : RegNum) (t : Int) (h : overflows t = true) :
    signedResult s r t = ⟨setReg s r (BitVec.ofInt 32 t), some 3, some .fixedPointOverflow⟩ := by
  simp [signedResult, ccArith, h]

theorem overflows_iff (t : Int) : overflows t = true ↔ ¬fitsWord t := by
  simp only [overflows, fitsWord, Bool.or_eq_true, decide_eq_true_eq]; omega

theorem multiplyResult_of_even (s : State) (r : RegNum) (d : Word) (h : r.getLsbD 0 = false) :
    multiplyResult s r d = done (setPair s r (BitVec.ofInt 64 ((getReg s (r + 1)).toInt * d.toInt))) := by
  rw [multiplyResult, whenEven_of_even _ _ _ h]

/-- A division that raises: a zero divisor, or a quotient that does not fit (R226). -/
theorem divideResult_raises (s : State) (r : RegNum) (d : Word) (h : r.getLsbD 0 = false)
    (k : d = 0 ∨ overflows ((getPair s r).toInt.tdiv d.toInt) = true) :
    divideResult s r d = raise s .fixedPointDivide := by
  rw [divideResult, whenEven_of_even _ _ _ h]
  by_cases h0 : d = 0
  · simp [h0]
  · rcases k with k | k
    · exact absurd k h0
    · simp only [k, if_true, if_neg h0]

/-- A division that completes: the remainder and the quotient (R226). -/
theorem divideResult_completes (s : State) (r : RegNum) (d : Word) (h : r.getLsbD 0 = false) (h0 : d ≠ 0)
    (k : overflows ((getPair s r).toInt.tdiv d.toInt) = false) :
    divideResult s r d =
      done (setReg (setReg s r (BitVec.ofInt 32 ((getPair s r).toInt.tmod d.toInt))) (r + 1)
        (BitVec.ofInt 32 ((getPair s r).toInt.tdiv d.toInt))) := by
  rw [divideResult, whenEven_of_even _ _ _ h]
  simp only [k, if_neg h0, Bool.false_eq_true, if_false]

/-- A floating-point result changes at most its register. -/
theorem applyFp_state (s : State) (f : FReg) (p : FpResult) :
    (applyFp s f p).state = s ∨ ∃ v, p.value = some v ∧ (applyFp s f p).state = setFpr s f v := by
  unfold applyFp
  cases h : p.value with
  | none => exact .inl rfl
  | some v => exact .inr ⟨v, rfl, rfl⟩

/-- A decimal result stores the encoded field. -/
theorem decimalResult_state (s : State) (a : Addr) (L : Nat) (r : Int) :
    ∃ neg, (decimalResult s a L r).state = writeField s a (encField L neg (r.natAbs % 10 ^ (2 * L - 1))) := ⟨_, rfl⟩

/-! ## Storage loops: only memory changes, and its canonical form stays -/

theorem onlyMem_combineBytes (f : Byte → Byte → Byte) (n : Nat) (a b : Addr) (s : State) :
    OnlyMem s (combineBytes f n a b s) := by
  induction n generalizing a b s with
  | zero => exact OnlyMem.refl s
  | succ n ih => exact (onlyMem_writeByte s a _).trans (ih _ _ _)

theorem wf_combineBytes (f : Byte → Byte → Byte) (n : Nat) (a b : Addr) (s : State)
    (h : Memory.wf memorySize s.mem = true) : Memory.wf memorySize (combineBytes f n a b s).mem = true := by
  induction n generalizing a b s with
  | zero => exact h
  | succ n ih => exact ih _ _ _ (wf_writeByte s a _ h)

theorem readByte_combineBytes_outside (f : Byte → Byte → Byte) (n : Nat) (a b x : Addr) (s : State)
    (h : n ≤ (x - a).toNat) : readByte (combineBytes f n a b s) x = readByte s x := by
  induction n generalizing a b s with
  | zero => rfl
  | succ n ih =>
    have hx : x ≠ a := by
      intro e; rw [e, BitVec.sub_self] at h; simp at h
    have hs := sub_succ_toNat a x
    rw [if_neg hx] at hs
    rw [combineBytes, ih _ _ _ (by omega), readByte_writeByte_ne s a x _ hx]

theorem onlyMem_translate (t : Addr) (n : Nat) (a : Addr) (s : State) : OnlyMem s (translate t n a s) := by
  induction n generalizing a s with
  | zero => exact OnlyMem.refl s
  | succ n ih => exact (onlyMem_writeByte s a _).trans (ih _ _)

theorem wf_translate (t : Addr) (n : Nat) (a : Addr) (s : State) (h : Memory.wf memorySize s.mem = true) :
    Memory.wf memorySize (translate t n a s).mem = true := by
  induction n generalizing a s with
  | zero => exact h
  | succ n ih => exact ih _ _ (wf_writeByte s a _ h)

theorem onlyMem_moveLong (pad : Byte) (n k : Nat) (d a : Addr) (s : State) : OnlyMem s (moveLong pad n k d a s) := by
  induction n generalizing k d a s with
  | zero => exact OnlyMem.refl s
  | succ n ih => cases k <;> exact (onlyMem_writeByte s d _).trans (ih _ _ _ _)

theorem wf_moveLong (pad : Byte) (n k : Nat) (d a : Addr) (s : State) (h : Memory.wf memorySize s.mem = true) :
    Memory.wf memorySize (moveLong pad n k d a s).mem = true := by
  induction n generalizing k d a s with
  | zero => exact h
  | succ n ih => cases k <;> exact ih _ _ _ _ (wf_writeByte s d _ h)

theorem onlyMem_storeRegs (n : Nat) (r : RegNum) (a : Addr) (s : State) : OnlyMem s (storeRegs n r a s) := by
  induction n generalizing r a s with
  | zero => exact OnlyMem.refl s
  | succ n ih => exact (onlyMem_writeBE 4 s a _).trans (ih _ _ _)

theorem wf_storeRegs (n : Nat) (r : RegNum) (a : Addr) (s : State) (h : Memory.wf memorySize s.mem = true) :
    Memory.wf memorySize (storeRegs n r a s).mem = true := by
  induction n generalizing r a s with
  | zero => exact h
  | succ n ih => exact ih _ _ _ (wf_writeBE 4 s a _ h)

theorem onlyMem_moveOffset (a1 a2 : Addr) (i j : Nat) (p : BitVec 4) (s : State) :
    OnlyMem s (moveOffset a1 a2 i j p s) := by
  induction i generalizing j p s with
  | zero => exact OnlyMem.refl s
  | succ i ih => exact (onlyMem_writeByte s _ _).trans (ih _ _ _)

theorem wf_moveOffset (a1 a2 : Addr) (i j : Nat) (p : BitVec 4) (s : State)
    (h : Memory.wf memorySize s.mem = true) : Memory.wf memorySize (moveOffset a1 a2 i j p s).mem = true := by
  induction i generalizing j p s with
  | zero => exact h
  | succ i ih => exact ih _ _ _ (wf_writeByte s _ _ h)

theorem onlyMem_packBytes (a1 a2 : Addr) (i j : Nat) (s : State) : OnlyMem s (packBytes a1 a2 i j s) := by
  induction i generalizing j s with
  | zero => exact OnlyMem.refl s
  | succ i ih => exact (onlyMem_writeByte s _ _).trans (ih _ _)

theorem wf_packBytes (a1 a2 : Addr) (i j : Nat) (s : State) (h : Memory.wf memorySize s.mem = true) :
    Memory.wf memorySize (packBytes a1 a2 i j s).mem = true := by
  induction i generalizing j s with
  | zero => exact h
  | succ i ih => exact ih _ _ (wf_writeByte s _ _ h)

theorem onlyMem_unpackBytes (a1 a2 : Addr) (i j : Nat) (s : State) : OnlyMem s (unpackBytes a1 a2 i j s) := by
  induction i using Nat.strong_induction_on generalizing j s with
  | _ i ih =>
    match i with
    | 0 => exact OnlyMem.refl s
    | 1 => exact onlyMem_writeByte s _ _
    | i + 2 =>
      exact ((onlyMem_writeByte s _ _).trans (onlyMem_writeByte _ _ _)).trans (ih i (by omega) _ _)

theorem wf_unpackBytes (a1 a2 : Addr) (i j : Nat) (s : State) (h : Memory.wf memorySize s.mem = true) :
    Memory.wf memorySize (unpackBytes a1 a2 i j s).mem = true := by
  induction i using Nat.strong_induction_on generalizing j s with
  | _ i ih =>
    match i with
    | 0 => exact h
    | 1 => exact wf_writeByte s _ _ h
    | i + 2 => exact ih i (by omega) _ _ (wf_writeByte _ _ _ (wf_writeByte s _ _ h))

/-- One pattern byte of Edit changes only memory. -/
theorem onlyMem_editByte (fill : Byte) (first : Bool) (a : Addr) (e : EditState) :
    OnlyMem e.state (editByte fill first a e).state := by
  unfold editByte
  split
  · exact OnlyMem.refl _
  · dsimp only
    split
    · exact onlyMem_writeByte _ _ _
    · split
      · exact onlyMem_writeByte _ _ _
      · split
        · exact OnlyMem.refl _
        · exact onlyMem_writeByte _ _ _

theorem wf_editByte (fill : Byte) (first : Bool) (a : Addr) (e : EditState)
    (h : Memory.wf memorySize e.state.mem = true) :
    Memory.wf memorySize (editByte fill first a e).state.mem = true := by
  unfold editByte
  split
  · exact h
  · dsimp only
    split
    · exact wf_writeByte _ _ _ h
    · split
      · exact wf_writeByte _ _ _ h
      · split
        · exact h
        · exact wf_writeByte _ _ _ h

/-- Edit changes only memory. -/
theorem onlyMem_editLoop (fill : Byte) (n : Nat) (first : Bool) (a : Addr) (e : EditState) :
    OnlyMem e.state (editLoop fill n first a e).state := by
  induction n generalizing first a e with
  | zero => exact OnlyMem.refl _
  | succ n ih => exact (onlyMem_editByte fill first a e).trans (ih _ _ _)

theorem wf_editLoop (fill : Byte) (n : Nat) (first : Bool) (a : Addr) (e : EditState)
    (h : Memory.wf memorySize e.state.mem = true) :
    Memory.wf memorySize (editLoop fill n first a e).state.mem = true := by
  induction n generalizing first a e with
  | zero => exact h
  | succ n ih => exact ih _ _ _ (wf_editByte fill first a e h)

/-- LM changes only general registers. -/
theorem loadRegs_other (n : Nat) (r : RegNum) (a : Addr) (s : State) :
    loadRegs n r a s = { s with gpr := (loadRegs n r a s).gpr } := by
  induction n generalizing r a s with
  | zero => rfl
  | succ n ih => rw [loadRegs, ih]; rfl

end Sys2Proof.Machine
end

