-- ==== Sys2Proof/Laws/Edit.lean ====
section
/-! SUPPORT. What the Edit procedure of the model does with one pattern byte, in the terms of the claims (R516). -/

namespace Sys2Proof.Machine

/-- What the claims see of Edit between two pattern bytes. -/
def editPoint (e : EditState) : EditPoint := ⟨readByte e.state, e.sp, e.left, e.sig, e.nz, e.mark⟩

@[simp] theorem editPoint_byte (e : EditState) : (editPoint e).byte = readByte e.state := rfl
@[simp] theorem editPoint_source (e : EditState) : (editPoint e).source = e.sp := rfl
@[simp] theorem editPoint_left (e : EditState) : (editPoint e).left = e.left := rfl
@[simp] theorem editPoint_sig (e : EditState) : (editPoint e).sig = e.sig := rfl
@[simp] theorem editPoint_nz (e : EditState) : (editPoint e).nz = e.nz := rfl
@[simp] theorem editPoint_mark (e : EditState) : (editPoint e).mark = e.mark := rfl

/-- After an invalid digit nothing more is done. -/
theorem editByte_of_bad (fill : Byte) (first : Bool) (a : Addr) (e : EditState) (h : e.bad = true) :
    editByte fill first a e = e := by rw [editByte, if_pos h]

theorem editLoop_of_bad (fill : Byte) (n : Nat) (first : Bool) (a : Addr) (e : EditState) (h : e.bad = true) :
    editLoop fill n first a e = e := by
  induction n generalizing first a with
  | zero => rfl
  | succ n ih => rw [editLoop, editByte_of_bad fill first a e h, ih]

/-- One pattern byte meets an invalid digit exactly where the claims say so. -/
theorem editByte_bad_iff (fill : Byte) (first : Bool) (a : Addr) (e : EditState) (h : e.bad = false) :
    (editByte fill first a e).bad = true ↔ BadEditDigit a (editPoint e) := by
  simp only [editByte, h, Bool.false_eq_true, if_false, BadEditDigit, takesDigit, editPoint_byte, editPoint_left,
    editPoint_source]
  by_cases hp : readByte e.state a = 0x20 ∨ readByte e.state a = 0x21
  · rw [if_pos hp]
    cases hl : e.left <;> simp only [editDigit, hl, hp, hiNib, Bool.false_and, Bool.false_eq_true, Bool.true_and,
      if_true, decide_eq_true_eq, true_and, false_and, and_false]
  · rw [if_neg hp]
    simp only [hp, false_and, iff_false, Bool.not_eq_true]
    split <;> [skip; split] <;> first | exact h | rfl

theorem low_nibble_eq (b : Byte) (k : BitVec 4) : b.extractLsb' 0 4 = k ↔ b.toNat % 16 = k.toNat := by
  rw [← BitVec.toNat_inj]; simp

/-- A digit selector or significance starter does what R516 says. -/
theorem editDigit_edits (fill : Byte) (first : Bool) (a : Addr) (e : EditState)
    (h : Memory.rising none e.state.mem = true) (hp : takesDigit (readByte e.state a)) :
    EditsByte fill first a (editPoint e) (editPoint (editDigit fill (readByte e.state a) a e)) := by
  have hx : ∀ x, x ≠ a → ∀ v, readByte (writeByte e.state a v) x = readByte e.state x :=
    fun x hx v => readByte_writeByte_ne e.state a x v hx
  refine ⟨fun x h' => hx x h' _, fun _ => ?_, fun h' => ?_, fun h' => absurd hp h'⟩
  · have hk : ∀ k : BitVec 4, (readByte e.state e.sp).extractLsb' 0 4 = k ↔
        (readByte e.state e.sp).toNat % 16 = k.toNat := low_nibble_eq _
    by_cases hr : 10 ≤ (readByte e.state e.sp).toNat % 16 <;> cases hl : e.left <;> cases hs : e.sig <;>
      simp [editDigit, hl, hs, hr, hk, hiNib, loNib, readByte_writeByte _ _ _ _ h]
    all_goals omega
  · rw [takesDigit, show readByte e.state a = 0x22 from h'] at hp; simp at hp

/-- One pattern byte does what R516 says. -/
theorem editByte_edits (fill : Byte) (first : Bool) (a : Addr) (e : EditState)
    (h : Memory.rising none e.state.mem = true) (hb : e.bad = false) :
    EditsByte fill first a (editPoint e) (editPoint (editByte fill first a e)) := by
  simp only [editByte, hb, Bool.false_eq_true, if_false]
  by_cases hp : readByte e.state a = 0x20 ∨ readByte e.state a = 0x21
  · rw [if_pos hp]; exact editDigit_edits fill first a e h hp
  · rw [if_neg hp]
    by_cases hs : readByte e.state a = 0x22
    · rw [if_pos hs]
      exact ⟨fun x hx => readByte_writeByte_ne e.state a x _ hx, fun h' => absurd h' hp,
        fun _ => ⟨by simp [readByte_writeByte _ _ _ _ h], rfl, rfl, rfl, rfl, rfl⟩, fun _ h' => absurd hs h'⟩
    · rw [if_neg hs]
      by_cases hf : (first || e.sig) = true
      · rw [if_pos hf]
        exact ⟨fun x _ => rfl, fun h' => absurd h' hp, fun h' => absurd h' hs,
          fun _ _ => ⟨(if_pos (by simpa using hf)).symm, rfl, rfl, rfl, rfl, rfl⟩⟩
      · rw [if_neg hf]
        exact ⟨fun x hx => readByte_writeByte_ne e.state a x _ hx, fun h' => absurd h' hp, fun h' => absurd h' hs,
          fun _ _ => ⟨by rw [if_neg (by simpa using hf)]; simp [readByte_writeByte _ _ _ _ h], rfl, rfl, rfl, rfl,
            rfl⟩⟩

/-- Edit leaves the bytes outside the pattern as they were. -/
theorem readByte_editLoop_outside (fill : Byte) (n : Nat) (first : Bool) (a x : Addr) (e : EditState)
    (h : n ≤ (x - a).toNat) : readByte (editLoop fill n first a e).state x = readByte e.state x := by
  induction n generalizing first a e with
  | zero => rfl
  | succ n ih =>
    have hx : x ≠ a := by
      rintro rfl
      rw [BitVec.sub_self] at h; simp at h
    have hs := sub_succ_toNat a x
    rw [if_neg hx] at hs
    rw [editLoop, ih _ _ _ (by omega)]
    unfold editByte
    split <;> [rfl; skip]
    dsimp only
    split <;> [exact readByte_writeByte_ne _ _ _ _ hx; skip]
    split <;> [exact readByte_writeByte_ne _ _ _ _ hx; skip]
    split <;> [rfl; exact readByte_writeByte_ne _ _ _ _ hx]

/-- Edit goes through the points of the claims, up to the end of the pattern or to an invalid digit. -/
theorem editLoop_points (fill : Byte) (n : Nat) (first : Bool) (a : Addr) (e : EditState)
    (h : Memory.wf memorySize e.state.mem = true) (hb : e.bad = false) :
    ∃ (m : Nat) (p : Nat → EditPoint), m ≤ n ∧ p 0 = editPoint e ∧
      (∀ k < m, ¬BadEditDigit (a + BitVec.ofNat 24 k) (p k) ∧
        EditsByte fill (first && decide (k = 0)) (a + BitVec.ofNat 24 k) (p k) (p (k + 1))) ∧
      (m < n → BadEditDigit (a + BitVec.ofNat 24 m) (p m)) ∧
      ((editLoop fill n first a e).bad = true ↔ m < n) ∧
      (m = n → p n = editPoint (editLoop fill n first a e)) := by
  induction n generalizing first a e with
  | zero => exact ⟨0, fun _ => editPoint e, by simp [editLoop, hb]⟩
  | succ n ih =>
    have ha : a + BitVec.ofNat 24 0 = a := by simp
    by_cases hd : BadEditDigit a (editPoint e)
    · have hbad := (editByte_bad_iff fill first a e hb).2 hd
      refine ⟨0, fun _ => editPoint e, Nat.zero_le _, rfl, by simp, fun _ => by rw [ha]; exact hd, ?_, by simp⟩
      rw [editLoop, editLoop_of_bad _ _ _ _ _ hbad]
      simpa using hbad
    · have hgood : (editByte fill first a e).bad = false := by
        simpa [hd] using editByte_bad_iff fill first a e hb
      obtain ⟨m, p, hm, h0, hs, hlast, hbad, hend⟩ := ih false (a + 1) _ (wf_editByte fill first a e h) hgood
      have hplace (k : Nat) : a + 1 + BitVec.ofNat 24 k = a + BitVec.ofNat 24 (k + 1) := by
        rw [BitVec.add_assoc, BitVec.ofNat_add]; congr 1; exact BitVec.add_comm _ _
      refine ⟨m + 1, fun k => if k = 0 then editPoint e else p (k - 1), by omega, rfl, ?_, ?_, ?_, ?_⟩
      · rintro (_ | k) hk
        · simp only [ha, if_true, decide_true, Bool.and_true, one_ne_zero, if_false, Nat.zero_add, Nat.sub_self]
          rw [h0]
          exact ⟨hd, editByte_edits fill first a e (Memory.wf_rising h) hb⟩
        · have := hs k (by omega)
          simp only [hplace] at this
          simpa using this
      · intro hlt
        have := hlast (by omega)
        simp only [hplace] at this
        simpa using this
      · rw [editLoop, hbad]; omega
      · intro he
        simpa [editLoop] using hend (by omega)

end Sys2Proof.Machine
end

