-- ==== Sys2Proof/Laws/Loop.lean ====
section
/-! SUPPORT. What the boundary check and one iteration of the loop can do, and the target of EX. -/

namespace Sys2Proof.Machine

/-! ## The boundary check -/

/-- Enqueuing changes only the queue. -/
theorem enqueue_frame (s : State) (src : SourceId) : enqueue s src = { s with queue := (enqueue s src).queue } := by
  unfold enqueue; split <;> rfl

/-- Enqueuing keeps the queue free of repetitions (R571). -/
theorem enqueue_nodup (s : State) (src : SourceId) (h : s.queue.Nodup) : (enqueue s src).queue.Nodup := by
  unfold enqueue
  split
  · exact h
  · next hn =>
    show (s.queue ++ [src]).Nodup
    rw [List.nodup_append]
    refine ⟨h, List.nodup_singleton _, ?_⟩
    rintro a ha b hb rfl
    rw [List.mem_singleton] at hb
    exact hn (hb ▸ ha)

/-- Enqueuing the sources of a list changes only the queue. -/
theorem enqueueAll_frame (s : State) (l : List SourceId) (t : State) :
    l.foldl (fun t src => if hasAsync s src then enqueue t src else t) t =
      { t with queue := (l.foldl (fun t src => if hasAsync s src then enqueue t src else t) t).queue } := by
  induction l generalizing t with
  | nil => rfl
  | cons x l ih =>
    rw [List.foldl_cons, ih]
    by_cases h : hasAsync s x = true
    · simp only [h, if_true]; rw [enqueue_frame]
    · simp only [h, Bool.false_eq_true, if_false]

/-- Step (a) changes only the queue (R572). -/
theorem enqueueAsync_frame (s : State) : enqueueAsync s = { s with queue := (enqueueAsync s).queue } :=
  enqueueAll_frame s (sources s) s

theorem sources_nodup (s : State) : (sources s).Nodup := by
  rw [sources, List.nodup_cons]
  exact ⟨by simp, (List.nodup_range).map fun _ _ h => by injection h⟩

/-- Enqueuing the pending sources of a list puts those not yet queued at the end, in the order of the list (R571). -/
theorem enqueueAll_queue (s : State) (l : List SourceId) (t : State) (hl : l.Nodup) :
    (l.foldl (fun t src => if hasAsync s src then enqueue t src else t) t).queue =
      t.queue ++ l.filter fun src => hasAsync s src && decide (src ∉ t.queue) := by
  induction l generalizing t with
  | nil => simp
  | cons x l ih =>
    rw [List.nodup_cons] at hl
    rw [List.foldl_cons, ih _ hl.2]
    by_cases h : hasAsync s x = true
    · by_cases hx : x ∈ t.queue
      · simp [h, hx, enqueue]
      · simp only [h, hx, if_true, enqueue, if_false, List.filter_cons, not_false_eq_true, decide_true, Bool.and_true]
        rw [List.append_assoc, List.singleton_append]
        congr 2
        refine List.filter_congr fun y hy => ?_
        have : y ≠ x := fun e => hl.1 (e ▸ hy)
        simp [this]
    · simp [h]

/-- The queue after step (a) (R572). -/
theorem enqueueAsync_queue (s : State) : (enqueueAsync s).queue =
    s.queue ++ (sources s).filter fun src => hasAsync s src && decide (src ∉ s.queue) :=
  enqueueAll_queue s (sources s) s (sources_nodup s)

theorem enqueueAsync_nodup (s : State) (h : s.queue.Nodup) : (enqueueAsync s).queue.Nodup := by
  unfold enqueueAsync
  generalize sources s = l
  suffices H : ∀ t : State, t.queue.Nodup →
      (l.foldl (fun t src => if hasAsync s src then enqueue t src else t) t).queue.Nodup from H s h
  intro t ht
  induction l generalizing t with
  | nil => exact ht
  | cons x l ih =>
    rw [List.foldl_cons]
    apply ih
    split
    · exact enqueue_nodup t x ht
    · exact ht

/-- A delivery changes the PSW, memory, the timer's flag, the devices' flags, the count of stored statuses and the
result of the call, nothing else. -/
theorem initiateSource_frame (s : State) (src : SourceId) :
    let t := initiateSource s src
    t.gpr = s.gpr ∧ t.fpr = s.fpr ∧ t.keys = s.keys ∧ t.queue = s.queue ∧ t.sinceIrq = s.sinceIrq ∧
      t.lastClock = s.lastClock ∧ t.record = s.record ∧ t.exTarget = s.exTarget ∧ t.halt = s.halt ∧
      t.clockReads = s.clockReads := by
  cases src with
  | timer =>
    simp only [initiateSource, initiateTimer]
    rw [initiate_frame]
    exact ⟨rfl, rfl, rfl, rfl, rfl, rfl, rfl, rfl, rfl, rfl⟩
  | device n =>
    simp only [initiateSource, initiateDevice]
    split
    · exact ⟨rfl, rfl, rfl, rfl, rfl, rfl, rfl, rfl, rfl, rfl⟩
    · rw [initiate_frame, write64, onlyMem_writeBE 8]
      exact ⟨rfl, rfl, rfl, rfl, rfl, rfl, rfl, rfl, rfl, rfl⟩

/-- The boundary check delivers nothing, or the first deliverable source of the queue (R572 b). -/
theorem deliverFirst_cases (s : State) :
    deliverFirst s = s ∨
      ∃ src, s.queue.find? (deliverable s) = some src ∧ deadTimeOver s = true ∧ deliverFirst s = deliver s src := by
  unfold deliverFirst
  split
  · exact .inl rfl
  · next src h =>
    split
    · exact .inr ⟨src, h, ‹_›, rfl⟩
    · exact .inl rfl

/-! ## EX -/

/-- The target of an EX runs as the instruction does, but an EX as target. -/
theorem runTarget_eq_exec (i : Instr) (s : State) (h : ∀ r1 x2 b2 d2, i ≠ .ex r1 x2 b2 d2) :
    runTarget i s = exec i s := by
  cases i with
  | ex r1 x2 b2 d2 => exact absurd rfl (h r1 x2 b2 d2)
  | _ => rfl

/-! ## The iteration -/

/-- What one iteration can do (R142): nothing when halted, end at the boundary check, wait, or count one instruction
step. -/
theorem iteration_cases (s : State) :
    let b := boundaryCheck (setResult s .budget)
    (s.halt = true ∧ iteration s = .next (setResult s .budget)) ∨
    (s.halt = false ∧ b.result ≠ .budget ∧ iteration s = .next b) ∨
    (s.halt = false ∧ b.result = .budget ∧ b.psw.w = true ∧ iteration s = .next (setResult b .enabledWait)) ∨
    (s.halt = false ∧ b.result = .budget ∧ b.psw.w = false ∧ iteration s = countStep (instrStep b)) := by
  intro b
  by_cases h1 : s.halt = true
  · exact .inl ⟨h1, by simp [iteration, setResult, h1]⟩
  · have h1' : s.halt = false := by simpa using h1
    by_cases h2 : b.result = .budget
    · by_cases h3 : b.psw.w = true
      · refine .inr (.inr (.inl ⟨h1', h2, h3, ?_⟩))
        simp only [iteration]
        rw [if_neg (by simpa [setResult] using h1), if_neg (not_not.mpr h2), if_pos h3]
      · refine .inr (.inr (.inr ⟨h1', h2, by simpa using h3, ?_⟩))
        simp only [iteration]
        rw [if_neg (by simpa [setResult] using h1), if_neg (not_not.mpr h2), if_neg h3]
    · refine .inr (.inl ⟨h1', h2, ?_⟩)
      simp only [iteration]
      rw [if_neg (by simpa [setResult] using h1), if_pos h2]

end Sys2Proof.Machine
end

