-- ==== Sys2Proof/Laws/PerInstr.lean ====
section
/-! SUPPORT. Statements about every instruction as syntax, one lemma per constructor of `Instr`. -/

namespace Sys2Proof.Laws.EncodedLength

/-- The encoding of an instruction starts with a byte whose two high bits give its length (spec/30_encoding.md
R100). -/
def Statement (i : Instr) : Prop := ∃ b0 rest, encode i = b0 :: rest ∧ (encode i).length = instrLength b0

theorem spm (r1 r2 : RegNum) : Statement (.spm r1 r2) := ⟨_, _, rfl, rfl⟩
theorem balr (r1 r2 : RegNum) : Statement (.balr r1 r2) := ⟨_, _, rfl, rfl⟩
theorem bctr (r1 r2 : RegNum) : Statement (.bctr r1 r2) := ⟨_, _, rfl, rfl⟩
theorem bcr (m1 r2 : RegNum) : Statement (.bcr m1 r2) := ⟨_, _, rfl, rfl⟩
theorem ssk (r1 r2 : RegNum) : Statement (.ssk r1 r2) := ⟨_, _, rfl, rfl⟩
theorem isk (r1 r2 : RegNum) : Statement (.isk r1 r2) := ⟨_, _, rfl, rfl⟩
theorem svc (i : Byte) : Statement (.svc i) := ⟨_, _, rfl, rfl⟩
theorem basr (r1 r2 : RegNum) : Statement (.basr r1 r2) := ⟨_, _, rfl, rfl⟩
theorem mvcl (r1 r2 : RegNum) : Statement (.mvcl r1 r2) := ⟨_, _, rfl, rfl⟩
theorem clcl (r1 r2 : RegNum) : Statement (.clcl r1 r2) := ⟨_, _, rfl, rfl⟩
theorem lpr (r1 r2 : RegNum) : Statement (.lpr r1 r2) := ⟨_, _, rfl, rfl⟩
theorem lnr (r1 r2 : RegNum) : Statement (.lnr r1 r2) := ⟨_, _, rfl, rfl⟩
theorem ltr (r1 r2 : RegNum) : Statement (.ltr r1 r2) := ⟨_, _, rfl, rfl⟩
theorem lcr (r1 r2 : RegNum) : Statement (.lcr r1 r2) := ⟨_, _, rfl, rfl⟩
theorem nr (r1 r2 : RegNum) : Statement (.nr r1 r2) := ⟨_, _, rfl, rfl⟩
theorem clr (r1 r2 : RegNum) : Statement (.clr r1 r2) := ⟨_, _, rfl, rfl⟩
theorem or (r1 r2 : RegNum) : Statement (.or r1 r2) := ⟨_, _, rfl, rfl⟩
theorem xr (r1 r2 : RegNum) : Statement (.xr r1 r2) := ⟨_, _, rfl, rfl⟩
theorem lr (r1 r2 : RegNum) : Statement (.lr r1 r2) := ⟨_, _, rfl, rfl⟩
theorem cr (r1 r2 : RegNum) : Statement (.cr r1 r2) := ⟨_, _, rfl, rfl⟩
theorem ar (r1 r2 : RegNum) : Statement (.ar r1 r2) := ⟨_, _, rfl, rfl⟩
theorem sr (r1 r2 : RegNum) : Statement (.sr r1 r2) := ⟨_, _, rfl, rfl⟩
theorem mr (r1 r2 : RegNum) : Statement (.mr r1 r2) := ⟨_, _, rfl, rfl⟩
theorem dr (r1 r2 : RegNum) : Statement (.dr r1 r2) := ⟨_, _, rfl, rfl⟩
theorem alr (r1 r2 : RegNum) : Statement (.alr r1 r2) := ⟨_, _, rfl, rfl⟩
theorem slr (r1 r2 : RegNum) : Statement (.slr r1 r2) := ⟨_, _, rfl, rfl⟩
theorem lpdr (r1 r2 : RegNum) : Statement (.lpdr r1 r2) := ⟨_, _, rfl, rfl⟩
theorem lndr (r1 r2 : RegNum) : Statement (.lndr r1 r2) := ⟨_, _, rfl, rfl⟩
theorem ltdr (r1 r2 : RegNum) : Statement (.ltdr r1 r2) := ⟨_, _, rfl, rfl⟩
theorem lcdr (r1 r2 : RegNum) : Statement (.lcdr r1 r2) := ⟨_, _, rfl, rfl⟩
theorem hdr (r1 r2 : RegNum) : Statement (.hdr r1 r2) := ⟨_, _, rfl, rfl⟩
theorem ldr (r1 r2 : RegNum) : Statement (.ldr r1 r2) := ⟨_, _, rfl, rfl⟩
theorem cdr (r1 r2 : RegNum) : Statement (.cdr r1 r2) := ⟨_, _, rfl, rfl⟩
theorem adr (r1 r2 : RegNum) : Statement (.adr r1 r2) := ⟨_, _, rfl, rfl⟩
theorem sdr (r1 r2 : RegNum) : Statement (.sdr r1 r2) := ⟨_, _, rfl, rfl⟩
theorem mdr (r1 r2 : RegNum) : Statement (.mdr r1 r2) := ⟨_, _, rfl, rfl⟩
theorem ddr (r1 r2 : RegNum) : Statement (.ddr r1 r2) := ⟨_, _, rfl, rfl⟩
theorem awr (r1 r2 : RegNum) : Statement (.awr r1 r2) := ⟨_, _, rfl, rfl⟩
theorem swr (r1 r2 : RegNum) : Statement (.swr r1 r2) := ⟨_, _, rfl, rfl⟩
theorem lper (r1 r2 : RegNum) : Statement (.lper r1 r2) := ⟨_, _, rfl, rfl⟩
theorem lner (r1 r2 : RegNum) : Statement (.lner r1 r2) := ⟨_, _, rfl, rfl⟩
theorem lter (r1 r2 : RegNum) : Statement (.lter r1 r2) := ⟨_, _, rfl, rfl⟩
theorem lcer (r1 r2 : RegNum) : Statement (.lcer r1 r2) := ⟨_, _, rfl, rfl⟩
theorem her (r1 r2 : RegNum) : Statement (.her r1 r2) := ⟨_, _, rfl, rfl⟩
theorem lrer (r1 r2 : RegNum) : Statement (.lrer r1 r2) := ⟨_, _, rfl, rfl⟩
theorem ler (r1 r2 : RegNum) : Statement (.ler r1 r2) := ⟨_, _, rfl, rfl⟩
theorem cer (r1 r2 : RegNum) : Statement (.cer r1 r2) := ⟨_, _, rfl, rfl⟩
theorem aer (r1 r2 : RegNum) : Statement (.aer r1 r2) := ⟨_, _, rfl, rfl⟩
theorem ser (r1 r2 : RegNum) : Statement (.ser r1 r2) := ⟨_, _, rfl, rfl⟩
theorem mer (r1 r2 : RegNum) : Statement (.mer r1 r2) := ⟨_, _, rfl, rfl⟩
theorem der (r1 r2 : RegNum) : Statement (.der r1 r2) := ⟨_, _, rfl, rfl⟩
theorem aur (r1 r2 : RegNum) : Statement (.aur r1 r2) := ⟨_, _, rfl, rfl⟩
theorem sur (r1 r2 : RegNum) : Statement (.sur r1 r2) := ⟨_, _, rfl, rfl⟩
theorem sth (r1 x2 b2 : RegNum) (d2 : Disp) : Statement (.sth r1 x2 b2 d2) := ⟨_, _, rfl, rfl⟩
theorem la (r1 x2 b2 : RegNum) (d2 : Disp) : Statement (.la r1 x2 b2 d2) := ⟨_, _, rfl, rfl⟩
theorem stc (r1 x2 b2 : RegNum) (d2 : Disp) : Statement (.stc r1 x2 b2 d2) := ⟨_, _, rfl, rfl⟩
theorem ic (r1 x2 b2 : RegNum) (d2 : Disp) : Statement (.ic r1 x2 b2 d2) := ⟨_, _, rfl, rfl⟩
theorem ex (r1 x2 b2 : RegNum) (d2 : Disp) : Statement (.ex r1 x2 b2 d2) := ⟨_, _, rfl, rfl⟩
theorem bal (r1 x2 b2 : RegNum) (d2 : Disp) : Statement (.bal r1 x2 b2 d2) := ⟨_, _, rfl, rfl⟩
theorem bct (r1 x2 b2 : RegNum) (d2 : Disp) : Statement (.bct r1 x2 b2 d2) := ⟨_, _, rfl, rfl⟩
theorem bc (m1 x2 b2 : RegNum) (d2 : Disp) : Statement (.bc m1 x2 b2 d2) := ⟨_, _, rfl, rfl⟩
theorem lh (r1 x2 b2 : RegNum) (d2 : Disp) : Statement (.lh r1 x2 b2 d2) := ⟨_, _, rfl, rfl⟩
theorem ch (r1 x2 b2 : RegNum) (d2 : Disp) : Statement (.ch r1 x2 b2 d2) := ⟨_, _, rfl, rfl⟩
theorem ah (r1 x2 b2 : RegNum) (d2 : Disp) : Statement (.ah r1 x2 b2 d2) := ⟨_, _, rfl, rfl⟩
theorem sh (r1 x2 b2 : RegNum) (d2 : Disp) : Statement (.sh r1 x2 b2 d2) := ⟨_, _, rfl, rfl⟩
theorem mh (r1 x2 b2 : RegNum) (d2 : Disp) : Statement (.mh r1 x2 b2 d2) := ⟨_, _, rfl, rfl⟩
theorem bas (r1 x2 b2 : RegNum) (d2 : Disp) : Statement (.bas r1 x2 b2 d2) := ⟨_, _, rfl, rfl⟩
theorem cvd (r1 x2 b2 : RegNum) (d2 : Disp) : Statement (.cvd r1 x2 b2 d2) := ⟨_, _, rfl, rfl⟩
theorem cvb (r1 x2 b2 : RegNum) (d2 : Disp) : Statement (.cvb r1 x2 b2 d2) := ⟨_, _, rfl, rfl⟩
theorem st (r1 x2 b2 : RegNum) (d2 : Disp) : Statement (.st r1 x2 b2 d2) := ⟨_, _, rfl, rfl⟩
theorem n (r1 x2 b2 : RegNum) (d2 : Disp) : Statement (.n r1 x2 b2 d2) := ⟨_, _, rfl, rfl⟩
theorem cl (r1 x2 b2 : RegNum) (d2 : Disp) : Statement (.cl r1 x2 b2 d2) := ⟨_, _, rfl, rfl⟩
theorem o (r1 x2 b2 : RegNum) (d2 : Disp) : Statement (.o r1 x2 b2 d2) := ⟨_, _, rfl, rfl⟩
theorem x (r1 x2 b2 : RegNum) (d2 : Disp) : Statement (.x r1 x2 b2 d2) := ⟨_, _, rfl, rfl⟩
theorem l (r1 x2 b2 : RegNum) (d2 : Disp) : Statement (.l r1 x2 b2 d2) := ⟨_, _, rfl, rfl⟩
theorem c (r1 x2 b2 : RegNum) (d2 : Disp) : Statement (.c r1 x2 b2 d2) := ⟨_, _, rfl, rfl⟩
theorem a (r1 x2 b2 : RegNum) (d2 : Disp) : Statement (.a r1 x2 b2 d2) := ⟨_, _, rfl, rfl⟩
theorem s (r1 x2 b2 : RegNum) (d2 : Disp) : Statement (.s r1 x2 b2 d2) := ⟨_, _, rfl, rfl⟩
theorem m (r1 x2 b2 : RegNum) (d2 : Disp) : Statement (.m r1 x2 b2 d2) := ⟨_, _, rfl, rfl⟩
theorem d (r1 x2 b2 : RegNum) (d2 : Disp) : Statement (.d r1 x2 b2 d2) := ⟨_, _, rfl, rfl⟩
theorem al (r1 x2 b2 : RegNum) (d2 : Disp) : Statement (.al r1 x2 b2 d2) := ⟨_, _, rfl, rfl⟩
theorem sl (r1 x2 b2 : RegNum) (d2 : Disp) : Statement (.sl r1 x2 b2 d2) := ⟨_, _, rfl, rfl⟩
theorem std (r1 x2 b2 : RegNum) (d2 : Disp) : Statement (.std r1 x2 b2 d2) := ⟨_, _, rfl, rfl⟩
theorem ld (r1 x2 b2 : RegNum) (d2 : Disp) : Statement (.ld r1 x2 b2 d2) := ⟨_, _, rfl, rfl⟩
theorem cd (r1 x2 b2 : RegNum) (d2 : Disp) : Statement (.cd r1 x2 b2 d2) := ⟨_, _, rfl, rfl⟩
theorem ad (r1 x2 b2 : RegNum) (d2 : Disp) : Statement (.ad r1 x2 b2 d2) := ⟨_, _, rfl, rfl⟩
theorem sd (r1 x2 b2 : RegNum) (d2 : Disp) : Statement (.sd r1 x2 b2 d2) := ⟨_, _, rfl, rfl⟩
theorem md (r1 x2 b2 : RegNum) (d2 : Disp) : Statement (.md r1 x2 b2 d2) := ⟨_, _, rfl, rfl⟩
theorem dd (r1 x2 b2 : RegNum) (d2 : Disp) : Statement (.dd r1 x2 b2 d2) := ⟨_, _, rfl, rfl⟩
theorem aw (r1 x2 b2 : RegNum) (d2 : Disp) : Statement (.aw r1 x2 b2 d2) := ⟨_, _, rfl, rfl⟩
theorem sw (r1 x2 b2 : RegNum) (d2 : Disp) : Statement (.sw r1 x2 b2 d2) := ⟨_, _, rfl, rfl⟩
theorem ste (r1 x2 b2 : RegNum) (d2 : Disp) : Statement (.ste r1 x2 b2 d2) := ⟨_, _, rfl, rfl⟩
theorem le (r1 x2 b2 : RegNum) (d2 : Disp) : Statement (.le r1 x2 b2 d2) := ⟨_, _, rfl, rfl⟩
theorem ce (r1 x2 b2 : RegNum) (d2 : Disp) : Statement (.ce r1 x2 b2 d2) := ⟨_, _, rfl, rfl⟩
theorem ae (r1 x2 b2 : RegNum) (d2 : Disp) : Statement (.ae r1 x2 b2 d2) := ⟨_, _, rfl, rfl⟩
theorem se (r1 x2 b2 : RegNum) (d2 : Disp) : Statement (.se r1 x2 b2 d2) := ⟨_, _, rfl, rfl⟩
theorem me (r1 x2 b2 : RegNum) (d2 : Disp) : Statement (.me r1 x2 b2 d2) := ⟨_, _, rfl, rfl⟩
theorem de (r1 x2 b2 : RegNum) (d2 : Disp) : Statement (.de r1 x2 b2 d2) := ⟨_, _, rfl, rfl⟩
theorem au (r1 x2 b2 : RegNum) (d2 : Disp) : Statement (.au r1 x2 b2 d2) := ⟨_, _, rfl, rfl⟩
theorem su (r1 x2 b2 : RegNum) (d2 : Disp) : Statement (.su r1 x2 b2 d2) := ⟨_, _, rfl, rfl⟩
theorem ssm (i2 : Byte) (b1 : RegNum) (d1 : Disp) : Statement (.ssm i2 b1 d1) := ⟨_, _, rfl, rfl⟩
theorem lpsw (i2 : Byte) (b1 : RegNum) (d1 : Disp) : Statement (.lpsw i2 b1 d1) := ⟨_, _, rfl, rfl⟩
theorem diag (r1 r3 b2 : RegNum) (d2 : Disp) : Statement (.diag r1 r3 b2 d2) := ⟨_, _, rfl, rfl⟩
theorem bxh (r1 r3 b2 : RegNum) (d2 : Disp) : Statement (.bxh r1 r3 b2 d2) := ⟨_, _, rfl, rfl⟩
theorem bxle (r1 r3 b2 : RegNum) (d2 : Disp) : Statement (.bxle r1 r3 b2 d2) := ⟨_, _, rfl, rfl⟩
theorem srl (r1 r3 b2 : RegNum) (d2 : Disp) : Statement (.srl r1 r3 b2 d2) := ⟨_, _, rfl, rfl⟩
theorem sll (r1 r3 b2 : RegNum) (d2 : Disp) : Statement (.sll r1 r3 b2 d2) := ⟨_, _, rfl, rfl⟩
theorem sra (r1 r3 b2 : RegNum) (d2 : Disp) : Statement (.sra r1 r3 b2 d2) := ⟨_, _, rfl, rfl⟩
theorem sla (r1 r3 b2 : RegNum) (d2 : Disp) : Statement (.sla r1 r3 b2 d2) := ⟨_, _, rfl, rfl⟩
theorem srdl (r1 r3 b2 : RegNum) (d2 : Disp) : Statement (.srdl r1 r3 b2 d2) := ⟨_, _, rfl, rfl⟩
theorem sldl (r1 r3 b2 : RegNum) (d2 : Disp) : Statement (.sldl r1 r3 b2 d2) := ⟨_, _, rfl, rfl⟩
theorem srda (r1 r3 b2 : RegNum) (d2 : Disp) : Statement (.srda r1 r3 b2 d2) := ⟨_, _, rfl, rfl⟩
theorem slda (r1 r3 b2 : RegNum) (d2 : Disp) : Statement (.slda r1 r3 b2 d2) := ⟨_, _, rfl, rfl⟩
theorem stm (r1 r3 b2 : RegNum) (d2 : Disp) : Statement (.stm r1 r3 b2 d2) := ⟨_, _, rfl, rfl⟩
theorem tm (i2 : Byte) (b1 : RegNum) (d1 : Disp) : Statement (.tm i2 b1 d1) := ⟨_, _, rfl, rfl⟩
theorem mvi (i2 : Byte) (b1 : RegNum) (d1 : Disp) : Statement (.mvi i2 b1 d1) := ⟨_, _, rfl, rfl⟩
theorem ts (i2 : Byte) (b1 : RegNum) (d1 : Disp) : Statement (.ts i2 b1 d1) := ⟨_, _, rfl, rfl⟩
theorem ni (i2 : Byte) (b1 : RegNum) (d1 : Disp) : Statement (.ni i2 b1 d1) := ⟨_, _, rfl, rfl⟩
theorem cli (i2 : Byte) (b1 : RegNum) (d1 : Disp) : Statement (.cli i2 b1 d1) := ⟨_, _, rfl, rfl⟩
theorem oi (i2 : Byte) (b1 : RegNum) (d1 : Disp) : Statement (.oi i2 b1 d1) := ⟨_, _, rfl, rfl⟩
theorem xi (i2 : Byte) (b1 : RegNum) (d1 : Disp) : Statement (.xi i2 b1 d1) := ⟨_, _, rfl, rfl⟩
theorem lm (r1 r3 b2 : RegNum) (d2 : Disp) : Statement (.lm r1 r3 b2 d2) := ⟨_, _, rfl, rfl⟩
theorem sio (u : BitVec 7) (b2 : RegNum) (d2 : Disp) : Statement (.sio u b2 d2) := ⟨_, _, rfl, rfl⟩
theorem siof (u : BitVec 7) (b2 : RegNum) (d2 : Disp) : Statement (.siof u b2 d2) := ⟨_, _, rfl, rfl⟩
theorem tio (u : BitVec 7) (b2 : RegNum) (d2 : Disp) : Statement (.tio u b2 d2) := ⟨_, _, rfl, rfl⟩
theorem hio (u : BitVec 7) (b2 : RegNum) (d2 : Disp) : Statement (.hio u b2 d2) := ⟨_, _, rfl, rfl⟩
theorem hdv (u : BitVec 7) (b2 : RegNum) (d2 : Disp) : Statement (.hdv u b2 d2) := ⟨_, _, rfl, rfl⟩
theorem tch (u : BitVec 7) (b2 : RegNum) (d2 : Disp) : Statement (.tch u b2 d2) := ⟨_, _, rfl, rfl⟩
theorem stnsm (i2 : Byte) (b1 : RegNum) (d1 : Disp) : Statement (.stnsm i2 b1 d1) := ⟨_, _, rfl, rfl⟩
theorem stosm (i2 : Byte) (b1 : RegNum) (d1 : Disp) : Statement (.stosm i2 b1 d1) := ⟨_, _, rfl, rfl⟩
theorem stck (b2 : RegNum) (d2 : Disp) : Statement (.stck b2 d2) := ⟨_, _, rfl, rfl⟩
theorem sckc (b2 : RegNum) (d2 : Disp) : Statement (.sckc b2 d2) := ⟨_, _, rfl, rfl⟩
theorem stckc (b2 : RegNum) (d2 : Disp) : Statement (.stckc b2 d2) := ⟨_, _, rfl, rfl⟩
theorem ptlb (b2 : RegNum) (d2 : Disp) : Statement (.ptlb b2 d2) := ⟨_, _, rfl, rfl⟩
theorem spx (b2 : RegNum) (d2 : Disp) : Statement (.spx b2 d2) := ⟨_, _, rfl, rfl⟩
theorem stpx (b2 : RegNum) (d2 : Disp) : Statement (.stpx b2 d2) := ⟨_, _, rfl, rfl⟩
theorem stap (b2 : RegNum) (d2 : Disp) : Statement (.stap b2 d2) := ⟨_, _, rfl, rfl⟩
theorem stctl (r1 r3 b2 : RegNum) (d2 : Disp) : Statement (.stctl r1 r3 b2 d2) := ⟨_, _, rfl, rfl⟩
theorem lctl (r1 r3 b2 : RegNum) (d2 : Disp) : Statement (.lctl r1 r3 b2 d2) := ⟨_, _, rfl, rfl⟩
theorem cs (r1 r3 b2 : RegNum) (d2 : Disp) : Statement (.cs r1 r3 b2 d2) := ⟨_, _, rfl, rfl⟩
theorem cds (r1 r3 b2 : RegNum) (d2 : Disp) : Statement (.cds r1 r3 b2 d2) := ⟨_, _, rfl, rfl⟩
theorem clm (r1 m3 b2 : RegNum) (d2 : Disp) : Statement (.clm r1 m3 b2 d2) := ⟨_, _, rfl, rfl⟩
theorem stcm (r1 m3 b2 : RegNum) (d2 : Disp) : Statement (.stcm r1 m3 b2 d2) := ⟨_, _, rfl, rfl⟩
theorem icm (r1 m3 b2 : RegNum) (d2 : Disp) : Statement (.icm r1 m3 b2 d2) := ⟨_, _, rfl, rfl⟩
theorem mvn (l : Byte) (b1 : RegNum) (d1 : Disp) (b2 : RegNum) (d2 : Disp) : Statement (.mvn l b1 d1 b2 d2) := ⟨_, _, rfl, rfl⟩
theorem mvc (l : Byte) (b1 : RegNum) (d1 : Disp) (b2 : RegNum) (d2 : Disp) : Statement (.mvc l b1 d1 b2 d2) := ⟨_, _, rfl, rfl⟩
theorem mvz (l : Byte) (b1 : RegNum) (d1 : Disp) (b2 : RegNum) (d2 : Disp) : Statement (.mvz l b1 d1 b2 d2) := ⟨_, _, rfl, rfl⟩
theorem nc (l : Byte) (b1 : RegNum) (d1 : Disp) (b2 : RegNum) (d2 : Disp) : Statement (.nc l b1 d1 b2 d2) := ⟨_, _, rfl, rfl⟩
theorem clc (l : Byte) (b1 : RegNum) (d1 : Disp) (b2 : RegNum) (d2 : Disp) : Statement (.clc l b1 d1 b2 d2) := ⟨_, _, rfl, rfl⟩
theorem oc (l : Byte) (b1 : RegNum) (d1 : Disp) (b2 : RegNum) (d2 : Disp) : Statement (.oc l b1 d1 b2 d2) := ⟨_, _, rfl, rfl⟩
theorem xc (l : Byte) (b1 : RegNum) (d1 : Disp) (b2 : RegNum) (d2 : Disp) : Statement (.xc l b1 d1 b2 d2) := ⟨_, _, rfl, rfl⟩
theorem tr (l : Byte) (b1 : RegNum) (d1 : Disp) (b2 : RegNum) (d2 : Disp) : Statement (.tr l b1 d1 b2 d2) := ⟨_, _, rfl, rfl⟩
theorem trt (l : Byte) (b1 : RegNum) (d1 : Disp) (b2 : RegNum) (d2 : Disp) : Statement (.trt l b1 d1 b2 d2) := ⟨_, _, rfl, rfl⟩
theorem ed (l : Byte) (b1 : RegNum) (d1 : Disp) (b2 : RegNum) (d2 : Disp) : Statement (.ed l b1 d1 b2 d2) := ⟨_, _, rfl, rfl⟩
theorem edmk (l : Byte) (b1 : RegNum) (d1 : Disp) (b2 : RegNum) (d2 : Disp) : Statement (.edmk l b1 d1 b2 d2) := ⟨_, _, rfl, rfl⟩
theorem srp (l1 i3 b1 : RegNum) (d1 : Disp) (b2 : RegNum) (d2 : Disp) : Statement (.srp l1 i3 b1 d1 b2 d2) := ⟨_, _, rfl, rfl⟩
theorem mvo (l1 l2 b1 : RegNum) (d1 : Disp) (b2 : RegNum) (d2 : Disp) : Statement (.mvo l1 l2 b1 d1 b2 d2) := ⟨_, _, rfl, rfl⟩
theorem pack (l1 l2 b1 : RegNum) (d1 : Disp) (b2 : RegNum) (d2 : Disp) : Statement (.pack l1 l2 b1 d1 b2 d2) := ⟨_, _, rfl, rfl⟩
theorem unpk (l1 l2 b1 : RegNum) (d1 : Disp) (b2 : RegNum) (d2 : Disp) : Statement (.unpk l1 l2 b1 d1 b2 d2) := ⟨_, _, rfl, rfl⟩
theorem zap (l1 l2 b1 : RegNum) (d1 : Disp) (b2 : RegNum) (d2 : Disp) : Statement (.zap l1 l2 b1 d1 b2 d2) := ⟨_, _, rfl, rfl⟩
theorem cp (l1 l2 b1 : RegNum) (d1 : Disp) (b2 : RegNum) (d2 : Disp) : Statement (.cp l1 l2 b1 d1 b2 d2) := ⟨_, _, rfl, rfl⟩
theorem ap (l1 l2 b1 : RegNum) (d1 : Disp) (b2 : RegNum) (d2 : Disp) : Statement (.ap l1 l2 b1 d1 b2 d2) := ⟨_, _, rfl, rfl⟩
theorem sp (l1 l2 b1 : RegNum) (d1 : Disp) (b2 : RegNum) (d2 : Disp) : Statement (.sp l1 l2 b1 d1 b2 d2) := ⟨_, _, rfl, rfl⟩
theorem mp (l1 l2 b1 : RegNum) (d1 : Disp) (b2 : RegNum) (d2 : Disp) : Statement (.mp l1 l2 b1 d1 b2 d2) := ⟨_, _, rfl, rfl⟩
theorem dp (l1 l2 b1 : RegNum) (d1 : Disp) (b2 : RegNum) (d2 : Disp) : Statement (.dp l1 l2 b1 d1 b2 d2) := ⟨_, _, rfl, rfl⟩

end Sys2Proof.Laws.EncodedLength
end

