-- ==== Sys2Proof/Tests/Slice0.lean ====
section
/-! SUPPORT. Tests: the checks of WellFormed, decoding of words written out from the spec's encodings, one-step vectors
of spec/95_test_vectors.md (their names are in the theorems' names), and a witness for the hypotheses of every
obligation that has some. -/

namespace Sys2Proof.Tests

open Sys2Proof Sys2Proof.Machine

set_option Elab.async false

/-! ## Well-formedness: an ill-formed term for each check -/

theorem test_ill_odd_pair : (Instr.mr 3 4).wellFormed = false ∧ (Instr.d 5 0 1 0).wellFormed = false ∧
    (Instr.slda 1 0 0 2).wellFormed = false ∧ (Instr.mvcl 3 4).wellFormed = false := by decide

theorem test_ill_second_pair : (Instr.mvcl 2 5).wellFormed = false ∧ (Instr.clcl 2 5).wellFormed = false ∧
    (Instr.cds 2 5 0 0).wellFormed = false := by decide

theorem test_ill_fp_register : (Instr.ldr 1 0).wellFormed = false ∧ (Instr.adr 0 3).wellFormed = false ∧
    (Instr.le 8 0 0 0).wellFormed = false ∧ (Instr.std 7 0 0 0).wellFormed = false := by decide

theorem test_ill_factor_length : (Instr.mp 1 1 0 0 0 0).wellFormed = false ∧
    (Instr.mp 15 8 0 0 0 0).wellFormed = false ∧ (Instr.dp 2 2 0 0 0 0).wellFormed = false := by decide

theorem test_ill_rounding_digit : (Instr.srp 3 10 0 0 0 1).wellFormed = false := by decide

theorem test_well_formed : (Instr.mr 2 5).wellFormed = true ∧ (Instr.mvcl 2 4).wellFormed = true ∧
    (Instr.ldr 6 0).wellFormed = true ∧ (Instr.mp 3 2 0 0 0 0).wellFormed = true ∧
    (Instr.srp 3 9 0 0 0 1).wellFormed = true := by decide

/-! ## Decoding: words written from the opcode map (R111) and the formats (R102 to R108) -/

/-- Every listed byte string decodes, whole, to its instruction. -/
def decodesTo (l : List (List Byte × Instr)) : Bool :=
  l.all fun p => match decode p.1 with
    | .ok (i, rest) => i == p.2 && rest == []
    | .error _ => false

theorem test_decode_rr_general : decodesTo [
    ([0x04, 0x5A], .spm 5 10), ([0x05, 0x5A], .balr 5 10), ([0x06, 0x5A], .bctr 5 10), ([0x07, 0x5A], .bcr 5 10),
    ([0x08, 0x5A], .ssk 5 10), ([0x09, 0x5A], .isk 5 10), ([0x0A, 0x5A], .svc 0x5A), ([0x0D, 0x5A], .basr 5 10),
    ([0x0E, 0x5A], .mvcl 5 10), ([0x0F, 0x5A], .clcl 5 10), ([0x10, 0x5A], .lpr 5 10), ([0x11, 0x5A], .lnr 5 10),
    ([0x12, 0x5A], .ltr 5 10), ([0x13, 0x5A], .lcr 5 10), ([0x14, 0x5A], .nr 5 10), ([0x15, 0x5A], .clr 5 10),
    ([0x16, 0x5A], .or 5 10), ([0x17, 0x5A], .xr 5 10), ([0x18, 0x5A], .lr 5 10), ([0x19, 0x5A], .cr 5 10),
    ([0x1A, 0x5A], .ar 5 10), ([0x1B, 0x5A], .sr 5 10), ([0x1C, 0x5A], .mr 5 10), ([0x1D, 0x5A], .dr 5 10),
    ([0x1E, 0x5A], .alr 5 10), ([0x1F, 0x5A], .slr 5 10)] = true := by decide +kernel

theorem test_decode_rr_float : decodesTo [
    ([0x20, 0x5A], .lpdr 5 10), ([0x21, 0x5A], .lndr 5 10), ([0x22, 0x5A], .ltdr 5 10), ([0x23, 0x5A], .lcdr 5 10),
    ([0x24, 0x5A], .hdr 5 10), ([0x28, 0x5A], .ldr 5 10), ([0x29, 0x5A], .cdr 5 10), ([0x2A, 0x5A], .adr 5 10),
    ([0x2B, 0x5A], .sdr 5 10), ([0x2C, 0x5A], .mdr 5 10), ([0x2D, 0x5A], .ddr 5 10), ([0x2E, 0x5A], .awr 5 10),
    ([0x2F, 0x5A], .swr 5 10), ([0x30, 0x5A], .lper 5 10), ([0x31, 0x5A], .lner 5 10), ([0x32, 0x5A], .lter 5 10),
    ([0x33, 0x5A], .lcer 5 10), ([0x34, 0x5A], .her 5 10), ([0x35, 0x5A], .lrer 5 10), ([0x38, 0x5A], .ler 5 10),
    ([0x39, 0x5A], .cer 5 10), ([0x3A, 0x5A], .aer 5 10), ([0x3B, 0x5A], .ser 5 10), ([0x3C, 0x5A], .mer 5 10),
    ([0x3D, 0x5A], .der 5 10), ([0x3E, 0x5A], .aur 5 10), ([0x3F, 0x5A], .sur 5 10)] = true := by decide +kernel

theorem test_decode_rx_general : decodesTo [
    ([0x40, 0x5A, 0xC3, 0x79], .sth 5 10 12 0x379), ([0x41, 0x5A, 0xC3, 0x79], .la 5 10 12 0x379),
    ([0x42, 0x5A, 0xC3, 0x79], .stc 5 10 12 0x379), ([0x43, 0x5A, 0xC3, 0x79], .ic 5 10 12 0x379),
    ([0x44, 0x5A, 0xC3, 0x79], .ex 5 10 12 0x379), ([0x45, 0x5A, 0xC3, 0x79], .bal 5 10 12 0x379),
    ([0x46, 0x5A, 0xC3, 0x79], .bct 5 10 12 0x379), ([0x47, 0x5A, 0xC3, 0x79], .bc 5 10 12 0x379),
    ([0x48, 0x5A, 0xC3, 0x79], .lh 5 10 12 0x379), ([0x49, 0x5A, 0xC3, 0x79], .ch 5 10 12 0x379),
    ([0x4A, 0x5A, 0xC3, 0x79], .ah 5 10 12 0x379), ([0x4B, 0x5A, 0xC3, 0x79], .sh 5 10 12 0x379),
    ([0x4C, 0x5A, 0xC3, 0x79], .mh 5 10 12 0x379), ([0x4D, 0x5A, 0xC3, 0x79], .bas 5 10 12 0x379),
    ([0x4E, 0x5A, 0xC3, 0x79], .cvd 5 10 12 0x379), ([0x4F, 0x5A, 0xC3, 0x79], .cvb 5 10 12 0x379),
    ([0x50, 0x5A, 0xC3, 0x79], .st 5 10 12 0x379), ([0x54, 0x5A, 0xC3, 0x79], .n 5 10 12 0x379),
    ([0x55, 0x5A, 0xC3, 0x79], .cl 5 10 12 0x379), ([0x56, 0x5A, 0xC3, 0x79], .o 5 10 12 0x379),
    ([0x57, 0x5A, 0xC3, 0x79], .x 5 10 12 0x379), ([0x58, 0x5A, 0xC3, 0x79], .l 5 10 12 0x379),
    ([0x59, 0x5A, 0xC3, 0x79], .c 5 10 12 0x379), ([0x5A, 0x5A, 0xC3, 0x79], .a 5 10 12 0x379),
    ([0x5B, 0x5A, 0xC3, 0x79], .s 5 10 12 0x379), ([0x5C, 0x5A, 0xC3, 0x79], .m 5 10 12 0x379),
    ([0x5D, 0x5A, 0xC3, 0x79], .d 5 10 12 0x379), ([0x5E, 0x5A, 0xC3, 0x79], .al 5 10 12 0x379),
    ([0x5F, 0x5A, 0xC3, 0x79], .sl 5 10 12 0x379)] = true := by decide +kernel

theorem test_decode_rx_float : decodesTo [
    ([0x60, 0x5A, 0xC3, 0x79], .std 5 10 12 0x379), ([0x68, 0x5A, 0xC3, 0x79], .ld 5 10 12 0x379),
    ([0x69, 0x5A, 0xC3, 0x79], .cd 5 10 12 0x379), ([0x6A, 0x5A, 0xC3, 0x79], .ad 5 10 12 0x379),
    ([0x6B, 0x5A, 0xC3, 0x79], .sd 5 10 12 0x379), ([0x6C, 0x5A, 0xC3, 0x79], .md 5 10 12 0x379),
    ([0x6D, 0x5A, 0xC3, 0x79], .dd 5 10 12 0x379), ([0x6E, 0x5A, 0xC3, 0x79], .aw 5 10 12 0x379),
    ([0x6F, 0x5A, 0xC3, 0x79], .sw 5 10 12 0x379), ([0x70, 0x5A, 0xC3, 0x79], .ste 5 10 12 0x379),
    ([0x78, 0x5A, 0xC3, 0x79], .le 5 10 12 0x379), ([0x79, 0x5A, 0xC3, 0x79], .ce 5 10 12 0x379),
    ([0x7A, 0x5A, 0xC3, 0x79], .ae 5 10 12 0x379), ([0x7B, 0x5A, 0xC3, 0x79], .se 5 10 12 0x379),
    ([0x7C, 0x5A, 0xC3, 0x79], .me 5 10 12 0x379), ([0x7D, 0x5A, 0xC3, 0x79], .de 5 10 12 0x379),
    ([0x7E, 0x5A, 0xC3, 0x79], .au 5 10 12 0x379),
    ([0x7F, 0x5A, 0xC3, 0x79], .su 5 10 12 0x379)] = true := by decide +kernel

theorem test_decode_si : decodesTo [
    ([0x80, 0x5A, 0xC3, 0x79], .ssm 0x5A 12 0x379), ([0x82, 0x5A, 0xC3, 0x79], .lpsw 0x5A 12 0x379),
    ([0x91, 0x5A, 0xC3, 0x79], .tm 0x5A 12 0x379), ([0x92, 0x5A, 0xC3, 0x79], .mvi 0x5A 12 0x379),
    ([0x93, 0x5A, 0xC3, 0x79], .ts 0x5A 12 0x379), ([0x94, 0x5A, 0xC3, 0x79], .ni 0x5A 12 0x379),
    ([0x95, 0x5A, 0xC3, 0x79], .cli 0x5A 12 0x379), ([0x96, 0x5A, 0xC3, 0x79], .oi 0x5A 12 0x379),
    ([0x97, 0x5A, 0xC3, 0x79], .xi 0x5A 12 0x379), ([0xAC, 0x5A, 0xC3, 0x79], .stnsm 0x5A 12 0x379),
    ([0xAD, 0x5A, 0xC3, 0x79], .stosm 0x5A 12 0x379)] = true := by decide +kernel

theorem test_decode_rs : decodesTo [
    ([0x83, 0x5A, 0xC3, 0x79], .diag 5 10 12 0x379), ([0x86, 0x5A, 0xC3, 0x79], .bxh 5 10 12 0x379),
    ([0x87, 0x5A, 0xC3, 0x79], .bxle 5 10 12 0x379), ([0x88, 0x5A, 0xC3, 0x79], .srl 5 10 12 0x379),
    ([0x89, 0x5A, 0xC3, 0x79], .sll 5 10 12 0x379), ([0x8A, 0x5A, 0xC3, 0x79], .sra 5 10 12 0x379),
    ([0x8B, 0x5A, 0xC3, 0x79], .sla 5 10 12 0x379), ([0x8C, 0x5A, 0xC3, 0x79], .srdl 5 10 12 0x379),
    ([0x8D, 0x5A, 0xC3, 0x79], .sldl 5 10 12 0x379), ([0x8E, 0x5A, 0xC3, 0x79], .srda 5 10 12 0x379),
    ([0x8F, 0x5A, 0xC3, 0x79], .slda 5 10 12 0x379), ([0x90, 0x5A, 0xC3, 0x79], .stm 5 10 12 0x379),
    ([0x98, 0x5A, 0xC3, 0x79], .lm 5 10 12 0x379), ([0xB6, 0x5A, 0xC3, 0x79], .stctl 5 10 12 0x379),
    ([0xB7, 0x5A, 0xC3, 0x79], .lctl 5 10 12 0x379), ([0xBA, 0x5A, 0xC3, 0x79], .cs 5 10 12 0x379),
    ([0xBB, 0x5A, 0xC3, 0x79], .cds 5 10 12 0x379), ([0xBD, 0x5A, 0xC3, 0x79], .clm 5 10 12 0x379),
    ([0xBE, 0x5A, 0xC3, 0x79], .stcm 5 10 12 0x379),
    ([0xBF, 0x5A, 0xC3, 0x79], .icm 5 10 12 0x379)] = true := by decide +kernel

theorem test_decode_s : decodesTo [
    ([0x9C, 0x5A, 0xC3, 0x79], .sio 0x2D 12 0x379), ([0x9C, 0x5B, 0xC3, 0x79], .siof 0x2D 12 0x379),
    ([0x9D, 0x5A, 0xC3, 0x79], .tio 0x2D 12 0x379), ([0x9E, 0x5A, 0xC3, 0x79], .hio 0x2D 12 0x379),
    ([0x9E, 0x5B, 0xC3, 0x79], .hdv 0x2D 12 0x379), ([0x9F, 0x5A, 0xC3, 0x79], .tch 0x2D 12 0x379),
    ([0xB2, 0x05, 0xC3, 0x79], .stck 12 0x379), ([0xB2, 0x06, 0xC3, 0x79], .sckc 12 0x379),
    ([0xB2, 0x07, 0xC3, 0x79], .stckc 12 0x379), ([0xB2, 0x0D, 0xC3, 0x79], .ptlb 12 0x379),
    ([0xB2, 0x10, 0xC3, 0x79], .spx 12 0x379), ([0xB2, 0x11, 0xC3, 0x79], .stpx 12 0x379),
    ([0xB2, 0x12, 0xC3, 0x79], .stap 12 0x379)] = true := by decide +kernel

theorem test_decode_ss : decodesTo [
    ([0xD1, 0x5A, 0xC3, 0x79, 0xE8, 0x64], .mvn 0x5A 12 0x379 14 0x864),
    ([0xD2, 0x5A, 0xC3, 0x79, 0xE8, 0x64], .mvc 0x5A 12 0x379 14 0x864),
    ([0xD3, 0x5A, 0xC3, 0x79, 0xE8, 0x64], .mvz 0x5A 12 0x379 14 0x864),
    ([0xD4, 0x5A, 0xC3, 0x79, 0xE8, 0x64], .nc 0x5A 12 0x379 14 0x864),
    ([0xD5, 0x5A, 0xC3, 0x79, 0xE8, 0x64], .clc 0x5A 12 0x379 14 0x864),
    ([0xD6, 0x5A, 0xC3, 0x79, 0xE8, 0x64], .oc 0x5A 12 0x379 14 0x864),
    ([0xD7, 0x5A, 0xC3, 0x79, 0xE8, 0x64], .xc 0x5A 12 0x379 14 0x864),
    ([0xDC, 0x5A, 0xC3, 0x79, 0xE8, 0x64], .tr 0x5A 12 0x379 14 0x864),
    ([0xDD, 0x5A, 0xC3, 0x79, 0xE8, 0x64], .trt 0x5A 12 0x379 14 0x864),
    ([0xDE, 0x5A, 0xC3, 0x79, 0xE8, 0x64], .ed 0x5A 12 0x379 14 0x864),
    ([0xDF, 0x5A, 0xC3, 0x79, 0xE8, 0x64], .edmk 0x5A 12 0x379 14 0x864),
    ([0xF0, 0x5A, 0xC3, 0x79, 0xE8, 0x64], .srp 5 10 12 0x379 14 0x864),
    ([0xF1, 0x5A, 0xC3, 0x79, 0xE8, 0x64], .mvo 5 10 12 0x379 14 0x864),
    ([0xF2, 0x5A, 0xC3, 0x79, 0xE8, 0x64], .pack 5 10 12 0x379 14 0x864),
    ([0xF3, 0x5A, 0xC3, 0x79, 0xE8, 0x64], .unpk 5 10 12 0x379 14 0x864),
    ([0xF8, 0x5A, 0xC3, 0x79, 0xE8, 0x64], .zap 5 10 12 0x379 14 0x864),
    ([0xF9, 0x5A, 0xC3, 0x79, 0xE8, 0x64], .cp 5 10 12 0x379 14 0x864),
    ([0xFA, 0x5A, 0xC3, 0x79, 0xE8, 0x64], .ap 5 10 12 0x379 14 0x864),
    ([0xFB, 0x5A, 0xC3, 0x79, 0xE8, 0x64], .sp 5 10 12 0x379 14 0x864),
    ([0xFC, 0x5A, 0xC3, 0x79, 0xE8, 0x64], .mp 5 10 12 0x379 14 0x864),
    ([0xFD, 0x5A, 0xC3, 0x79, 0xE8, 0x64], .dp 5 10 12 0x379 14 0x864)] = true := by decide +kernel

/-- R112, vectors E9, E13 to E15: encodings with no row, refused by kind. -/
theorem test_decode_no_row : decodeInstr [0x00, 0x00] = none ∧ decodeInstr [0x36, 0x00] = none ∧
    decodeInstr [0xB2, 0xFF, 0x00, 0x00] = none ∧ decodeInstr [0x9D, 0x01, 0x00, 0x00] = none ∧
    decodeInstr [0xE0, 0, 0, 0, 0, 0] = none ∧ decodeInstr [0x5A, 0x10, 0x10] = none := by decide +kernel

/-- The word of a table row, bit 0 the least significant bit of its last byte, and a match value (R119). -/
theorem test_table_word : decodeTableWord 16 0x1812 = some (.lr 1 2) ∧
    decodeTableWord 32 0x5A102010 = some (.a 1 0 2 0x010) ∧ decodeTableWord 32 0xB2051000 = some (.stck 1 0) ∧
    decodeTableWord 48 0xD20310011000 = some (.mvc 3 1 1 1 0) ∧ decodeTableWord 16 0x3600 = none ∧
    decodeTableWord 16 0x5A00 = some (.a 0 0 0 0) ∧ decodeTableWord 32 0x5A00 = some (.a 0 0 0 0) := by decide +kernel

/-! ## One step on a small state (spec/95_test_vectors.md) -/

/-- The reset state with `pc = 0x200`, `x[12] = 0x1000`, `x[13] = 0x2000` (the bases of the operands that the vectors
write as X'1000' and X'2000'), registers, memory, a program mask and a condition code given. -/
def start (rs : List (RegNum × Word)) (ms : List (Addr × List Byte)) (pm : BitVec 4 := 0) (cc : CC := 0) : State :=
  let s := setPc (setCc (setPm State.reset pm) cc) 0x200
  let s := setReg (setReg s 12 0x1000) 13 0x2000
  let s := rs.foldl (fun t p => setReg t p.1 p.2) s
  ms.foldl (fun t p => writeField t p.1 p.2) s

/-- With floating-point registers set from their long images. -/
def withF (fs : List (FReg × DWord)) (s : State) : State := fs.foldl (fun t p => setFpr t p.1 (unpackLong p.2)) s

/-- The bytes stand at `pc` and one step gives a state with the property. -/
def gives (bs : List Byte) (s : State) (check : State → Bool) : Bool :=
  match step (writeField s s.psw.pc bs) with
  | .next t => check t
  | _ => false

/-- The code of the program interruption taken last, as the old PSW at 40 holds it. -/
def code (t : State) : Half := read16 t 42

/-- No program interruption has been taken by the step. -/
def quiet (t : State) : Bool := read64 t 40 == 0

/-- The long image of a floating-point register. -/
def img (t : State) (f : FReg) : DWord := packLong (getFpr t f)

theorem test_reset_fetch : (match step (State.reset.withFetchWord 16 0x1812) with
    | .next t => t.psw.pc == 2 && t.psw.ilc == 1 && t.result == .budget && t.sinceIrq == 1
    | _ => false) = true := by decide +kernel

theorem test_reset_unknown : gives [] State.reset (fun t => t.result == .unknownInstruction && t.psw.pc == 2) = true := by
  decide +kernel

theorem test_E11_sio_ignored_bits : gives [0x9C, 0xFE, 0x00, 0x0C] (start [] []) (fun t =>
    t.result == .sentinel .io 0x9CFE && t.record.addr == 0x00C && t.psw.pc == 0x204) = true := by decide +kernel

theorem test_E10_siof : gives [0x9C, 0x01, 0x00, 0x0C] (start [] []) (fun t =>
    t.result == .sentinel .io 0x9C01 && t.record.addr == 0x00C) = true := by decide +kernel

theorem test_E8_ptlb : gives [0xB2, 0x0D, 0x00, 0x00] (start [] [] 0 2) (fun t =>
    t.result == .sentinel .priv 0xB20D && t.psw.ilc == 2 && t.psw.cc == 2) = true := by decide +kernel

theorem test_E9_no_row_priv : gives [0xB2, 0xFF, 0x00, 0x00] (start [] []) (fun t =>
    t.result == .sentinel .priv 0xB2FF) = true := by decide +kernel

theorem test_E12_diag : gives [0x83, 0x12, 0x00, 0x60] (start [] []) (fun t =>
    t.result == .sentinel .diag 0x83120060 && t.record.ra == 1 && t.record.rb == 2 && t.record.addr == 0x60) = true := by
  decide +kernel

theorem test_Y14_stctl : gives [0xB6, 0x0F, 0x01, 0x00] (start [] []) (fun t =>
    t.result == .sentinel .priv 0xB60F) = true := by decide +kernel

theorem test_E15_no_row_long : gives [0xE0, 0, 0, 0, 0, 0] (start [] []) (fun t =>
    t.result == .unknownInstruction && t.psw.pc == 0x206 && t.psw.ilc == 3 && t.record.insn == 0xE0000000) = true := by
  decide +kernel

theorem test_E16_odd_pc : gives [] (setIlc (setPc (start [] []) 0x201) 3) (fun t =>
    code t == 6 && readField t 44 4 == [0xC0, 0x00, 0x02, 0x01]) = true := by decide +kernel

theorem test_E17_la_wraps : gives [0x41, 0x1F, 0xFF, 0xFF] (start [(15, 0x00FFFFFF)] []) (fun t =>
    getReg t 1 == 0x00000FFD) = true := by decide +kernel

theorem test_E18_la_register_zero : gives [0x41, 0x10, 0x00, 0x10] (start [(0, 0x12345678)] []) (fun t =>
    getReg t 1 == 0x10) = true := by decide +kernel

theorem test_S6_lr : gives [0x18, 0x12] (start [(2, 5)] [] 0 2) (fun t =>
    getReg t 1 == 5 && t.psw.ilc == 1 && t.psw.pc == 0x202 && t.psw.cc == 2) = true := by decide +kernel

/-- Vectors X2 and X3: the timer word crosses zero, or was negative before. -/
theorem test_X2_timer_crosses : (let t := timerTick (start [] [(80, [0, 0, 0, 0])])
    t.timerPending && readField t 80 4 == [0xFF, 0xFF, 0xFF, 0x00]) = true := by decide +kernel

theorem test_X3_timer_was_negative : (let t := timerTick (start [] [(80, [0x80, 0, 0, 0])])
    !t.timerPending && readField t 80 4 == [0x7F, 0xFF, 0xFF, 0x00]) = true := by decide +kernel

/-- Vector X5: a masked request stays queued. -/
theorem test_X5_masked_request : (let t := boundaryCheck { start [] [] with timerPending := true }
    t.queue == [.timer] && t.timerPending && t.psw.pc == 0x200) = true := by decide +kernel

/-! General instructions, branches and system instructions (vectors G, L, B, Y, program P7). -/

theorem test_G1_add_overflow : gives [0x5A, 0x10, 0xC0, 0x00]
    (start [(1, 0x7FFFFFFF)] [(0x1000, [0x00, 0x00, 0x00, 0x01])])
    (fun t => getReg t 1 == 0x80000000 && t.psw.cc == 0x3 && quiet t) = true := by decide +kernel

theorem test_G2_add_overflow_enabled : gives [0x5A, 0x10, 0xC0, 0x00]
    (start [(1, 0x7FFFFFFF)] [(0x1000, [0x00, 0x00, 0x00, 0x01])] 0x8)
    (fun t => getReg t 1 == 0x80000000 && code t == 0x8 &&
      readField t 0x2C 4 == [0xB8, 0x00, 0x02, 0x04]) = true := by decide +kernel

theorem test_G3_ar_overflow : gives [0x1A, 0x12] (start [(1, 0x80000000), (2, 0xFFFFFFFF)] [])
    (fun t => getReg t 1 == 0x7FFFFFFF && t.psw.cc == 0x3) = true := by decide +kernel

theorem test_G4_sr_self : gives [0x1B, 0x11] (start [(1, 0x5)] [])
    (fun t => getReg t 1 == 0x0 && t.psw.cc == 0x0) = true := by decide +kernel

theorem test_G5_lcr_minimum : gives [0x13, 0x12] (start [(2, 0x80000000)] [])
    (fun t => getReg t 1 == 0x80000000 && t.psw.cc == 0x3 && quiet t) = true := by decide +kernel

theorem test_G6_lpr_minimum : gives [0x10, 0x12] (start [(2, 0x80000000)] [] 0x8)
    (fun t => getReg t 1 == 0x80000000 && code t == 0x8) = true := by decide +kernel

theorem test_G7_lnr_zero : gives [0x11, 0x12] (start [(2, 0x0)] [] 0x0 1)
    (fun t => getReg t 1 == 0x0 && t.psw.cc == 0x0) = true := by decide +kernel

theorem test_lnr_positive : gives [0x11, 0x12] (start [(2, 0x5)] [])
    (fun t => getReg t 1 == 0xFFFFFFFB && t.psw.cc == 0x1) = true := by decide +kernel

theorem test_G8_ltr : gives [0x12, 0x22] (start [(2, 0x0)] [] 0x0 3)
    (fun t => getReg t 2 == 0x0 && t.psw.cc == 0x0) = true := by decide +kernel

theorem test_G9_alr_carry : gives [0x1E, 0x12] (start [(1, 0xFFFFFFFF), (2, 0x1)] [])
    (fun t => getReg t 1 == 0x0 && t.psw.cc == 0x2) = true := by decide +kernel

theorem test_G10_alr : gives [0x1E, 0x12] (start [(1, 0x1), (2, 0x1)] [])
    (fun t => getReg t 1 == 0x2 && t.psw.cc == 0x1) = true := by decide +kernel

theorem test_G12_slr : gives [0x1F, 0x12] (start [(1, 0x7), (2, 0x5)] [])
    (fun t => getReg t 1 == 0x2) = true := by decide +kernel

theorem test_G13_mr : gives [0x1C, 0x24] (start [(3, 0x80000000), (4, 0x80000000)] [])
    (fun t => getReg t 2 == 0x40000000 && getReg t 3 == 0x0) = true := by decide +kernel

theorem test_G14_mr_odd : gives [0x1C, 0x34] (start [(3, 0x2)] [])
    (fun t => code t == 0x6 && getReg t 3 == 0x2) = true := by decide +kernel

theorem test_G15_mh : gives [0x4C, 0x10, 0xC0, 0x00] (start [(1, 0x00020000)] [(0x1000, [0x80, 0x00])] 0x0 3)
    (fun t => getReg t 1 == 0x0 && t.psw.cc == 0x3 && quiet t) = true := by decide +kernel

theorem test_G16_dr : gives [0x1D, 0x25] (start [(2, 0xFFFFFFFF), (3, 0xFFFFFFF9), (5, 0x2)] [])
    (fun t => getReg t 2 == 0xFFFFFFFF && getReg t 3 == 0xFFFFFFFD) = true := by decide +kernel

theorem test_G18_dr_does_not_fit : gives [0x1D, 0x25] (start [(2, 0x1), (5, 0x1)] [])
    (fun t => code t == 0x9 && getReg t 2 == 0x1 && getReg t 3 == 0x0) = true := by decide +kernel

theorem test_G19_cr : gives [0x19, 0x12] (start [(1, 0xFFFFFFFF), (2, 0x1)] [])
    (fun t => t.psw.cc == 0x1) = true := by decide +kernel

theorem test_G19_clr : gives [0x15, 0x12] (start [(1, 0xFFFFFFFF), (2, 0x1)] [])
    (fun t => t.psw.cc == 0x2) = true := by decide +kernel

theorem test_ch_sign_extends : gives [0x49, 0x10, 0xC0, 0x00] (start [(1, 0xFFFFFFFF)] [(0x1000, [0xFF, 0xFE])] 0x0 0)
    (fun t => t.psw.cc == 0x2) = true := by decide +kernel

theorem test_ah_sign_extends : gives [0x4A, 0x10, 0xC0, 0x00] (start [(1, 0x1)] [(0x1000, [0xFF, 0xFE])])
    (fun t => getReg t 1 == 0xFFFFFFFF && t.psw.cc == 0x1) = true := by decide +kernel

theorem test_sh_sign_extends : gives [0x4B, 0x10, 0xC0, 0x00] (start [(1, 0x1)] [(0x1000, [0xFF, 0xFE])])
    (fun t => getReg t 1 == 0x3 && t.psw.cc == 0x2) = true := by decide +kernel

theorem test_G20_sla_intermediate : gives [0x8B, 0x10, 0x00, 0x02] (start [(1, 0x50000000)] [])
    (fun t => getReg t 1 == 0x40000000 && t.psw.cc == 0x3) = true := by decide +kernel

theorem test_G22_sla_overflow : gives [0x8B, 0x10, 0x00, 0x01] (start [(1, 0xBFFFFFFF)] [])
    (fun t => getReg t 1 == 0xFFFFFFFE && t.psw.cc == 0x3) = true := by decide +kernel

theorem test_G27_slda : gives [0x8F, 0x20, 0x00, 0x02] (start [(2, 0x40000000)] [])
    (fun t => getReg t 2 == 0x0 && getReg t 3 == 0x0 && t.psw.cc == 0x3) = true := by decide +kernel

theorem test_G28_slda_32 : gives [0x8F, 0x20, 0x00, 0x20] (start [(2, 0xFFFFFFFF), (3, 0x80000000)] [])
    (fun t => getReg t 2 == 0x80000000 && getReg t 3 == 0x0 && t.psw.cc == 0x1) = true := by decide +kernel

theorem test_G29_srda : gives [0x8E, 0x20, 0x00, 0x04] (start [(2, 0xFFFFFFFF), (3, 0xFFFFFFF0)] [])
    (fun t => getReg t 2 == 0xFFFFFFFF && getReg t 3 == 0xFFFFFFFF && t.psw.cc == 0x1) = true := by decide +kernel

theorem test_G30_sra_63 : gives [0x8A, 0x10, 0x00, 0x3F] (start [(1, 0x80000000)] [])
    (fun t => getReg t 1 == 0xFFFFFFFF && t.psw.cc == 0x1) = true := by decide +kernel

theorem test_G31_sll_32 : gives [0x89, 0x10, 0x00, 0x20] (start [(1, 0xFFFFFFFF)] [] 0x0 2)
    (fun t => getReg t 1 == 0x0 && t.psw.cc == 0x2) = true := by decide +kernel

theorem test_G32_sll_amount_from_address : gives [0x89, 0x10, 0x20, 0x00] (start [(1, 0x1), (2, 0x1)] [])
    (fun t => getReg t 1 == 0x2) = true := by decide +kernel

theorem test_srl_logical : gives [0x88, 0x10, 0x00, 0x04] (start [(1, 0x80000000)] [])
    (fun t => getReg t 1 == 0x08000000) = true := by decide +kernel

theorem test_srdl_across_pair : gives [0x8C, 0x20, 0x00, 0x04] (start [(2, 0x1)] [])
    (fun t => getReg t 2 == 0x0 && getReg t 3 == 0x10000000) = true := by decide +kernel

theorem test_sldl_across_pair : gives [0x8D, 0x20, 0x00, 0x04] (start [(3, 0x10000000)] [])
    (fun t => getReg t 2 == 0x1 && getReg t 3 == 0x0) = true := by decide +kernel

theorem test_G33_lm_wraps : gives [0x98, 0xF0, 0x01, 0x00]
    (start [] [(0x100, [0x00, 0x00, 0x00, 0x0F, 0x00, 0x00, 0x00, 0x07])])
    (fun t => getReg t 15 == 0xF && getReg t 0 == 0x7) = true := by decide +kernel

theorem test_stm_wraps : gives [0x90, 0xF0, 0x01, 0x00] (start [(15, 0x11223344), (0, 0x55667788)] [])
    (fun t => readField t 0x100 8 == [0x11, 0x22, 0x33, 0x44, 0x55, 0x66, 0x77, 0x88]) = true := by decide +kernel

theorem test_G34_st_wraps_storage : gives [0x50, 0x10, 0xFF, 0xFE] (start [(1, 0x11223344), (15, 0xFFF000)] [])
    (fun t => readField t 0xFFFFFE 4 == [0x11, 0x22, 0x33, 0x44]) = true := by decide +kernel

theorem test_sth : gives [0x40, 0x10, 0xC0, 0x01] (start [(1, 0x11223344)] [])
    (fun t => readField t 0x1000 4 == [0x00, 0x33, 0x44, 0x00]) = true := by decide +kernel

theorem test_G35_lh_odd_address : gives [0x48, 0x30, 0xC0, 0x01] (start [] [(0x1001, [0xFF, 0xFE])])
    (fun t => getReg t 3 == 0xFFFFFFFE && quiet t) = true := by decide +kernel

theorem test_L2_tm_some : gives [0x91, 0xC0, 0xC0, 0x00] (start [] [(0x1000, [0x81])])
    (fun t => t.psw.cc == 0x1) = true := by decide +kernel

theorem test_L3_tm_all : gives [0x91, 0x81, 0xC0, 0x00] (start [] [(0x1000, [0x81])])
    (fun t => t.psw.cc == 0x3) = true := by decide +kernel

theorem test_L5_icm : gives [0xBF, 0x18, 0xC0, 0x00] (start [(1, 0x00FFFFFF)] [(0x1000, [0x80])])
    (fun t => getReg t 1 == 0x80FFFFFF && t.psw.cc == 0x1) = true := by decide +kernel

theorem test_L6_icm_no_byte : gives [0xBF, 0x10, 0xC0, 0x00] (start [(1, 0x12345678)] [(0x1000, [0x80])] 0x0 2)
    (fun t => getReg t 1 == 0x12345678 && t.psw.cc == 0x0) = true := by decide +kernel

theorem test_L7_clm : gives [0xBD, 0x15, 0xC0, 0x00] (start [(1, 0x11223344)] [(0x1000, [0x22, 0x45])])
    (fun t => t.psw.cc == 0x1) = true := by decide +kernel

theorem test_L8_stcm : gives [0xBE, 0x19, 0xC0, 0x00] (start [(1, 0x11223344)] [])
    (fun t => readField t 0x1000 3 == [0x11, 0x44, 0x00]) = true := by decide +kernel

theorem test_L9_mvc_overlap : gives [0xD2, 0x03, 0xC0, 0x01, 0xC0, 0x00]
    (start [] [(0x1000, [0xC1, 0xC2, 0xC3, 0xC4, 0xC5])])
    (fun t => readField t 0x1000 5 == [0xC1, 0xC1, 0xC1, 0xC1, 0xC1]) = true := by decide +kernel

theorem test_L10_mvc_down : gives [0xD2, 0x03, 0xC0, 0x00, 0xC0, 0x01]
    (start [] [(0x1000, [0xC1, 0xC2, 0xC3, 0xC4, 0xC5])])
    (fun t => readField t 0x1000 5 == [0xC2, 0xC3, 0xC4, 0xC5, 0xC5]) = true := by decide +kernel

theorem test_L11_nc : gives [0xD4, 0x01, 0xC0, 0x00, 0xD0, 0x00]
    (start [] [(0x1000, [0x12, 0x34]), (0x2000, [0xFF, 0x0F])])
    (fun t => readField t 0x1000 2 == [0x12, 0x04] && t.psw.cc == 0x1) = true := by decide +kernel

theorem test_oc : gives [0xD6, 0x01, 0xC0, 0x00, 0xD0, 0x00]
    (start [] [(0x1000, [0x12, 0x34]), (0x2000, [0xFF, 0x0F])])
    (fun t => readField t 0x1000 2 == [0xFF, 0x3F] && t.psw.cc == 0x1) = true := by decide +kernel

theorem test_L12_xc_self : gives [0xD7, 0x01, 0xC0, 0x00, 0xC0, 0x00] (start [] [(0x1000, [0xAA, 0x55])] 0x0 3)
    (fun t => readField t 0x1000 2 == [0x00, 0x00] && t.psw.cc == 0x0) = true := by decide +kernel

theorem test_L13_clc_equal : gives [0xD5, 0x02, 0xC0, 0x00, 0xD0, 0x00]
    (start [] [(0x1000, [0xC1, 0xC2, 0xC3]), (0x2000, [0xC1, 0xC2, 0xC3])] 0x0 3)
    (fun t => t.psw.cc == 0x0) = true := by decide +kernel

theorem test_L14_clc_unsigned : gives [0xD5, 0x00, 0xC0, 0x00, 0xD0, 0x00]
    (start [] [(0x1000, [0x80]), (0x2000, [0x7F])])
    (fun t => t.psw.cc == 0x2) = true := by decide +kernel

theorem test_L15_tr : gives [0xDC, 0x02, 0xC0, 0x00, 0xD0, 0x00]
    (start [] [(0x1000, [0x00, 0x01, 0x02]), (0x2000, [0xF0, 0xF1, 0xF2])])
    (fun t => readField t 0x1000 3 == [0xF0, 0xF1, 0xF2]) = true := by decide +kernel

theorem test_L16_trt : gives [0xDD, 0x02, 0xC0, 0x00, 0xD0, 0x00]
    (start [(1, 0xAA000000), (2, 0xBBBBBBBB)] [(0x1000, [0x40, 0x6B, 0x40]), (0x206B, [0x04])])
    (fun t => getReg t 1 == 0xAA001001 && getReg t 2 == 0xBBBBBB04 && t.psw.cc == 0x1) = true := by decide +kernel

theorem test_L17_trt_none : gives [0xDD, 0x02, 0xC0, 0x00, 0xD0, 0x00]
    (start [(1, 0xAA000000), (2, 0xBBBBBBBB)] [(0x1000, [0x40, 0x40, 0x40])] 0x0 3)
    (fun t => getReg t 1 == 0xAA000000 && getReg t 2 == 0xBBBBBBBB && t.psw.cc == 0x0) = true := by decide +kernel

theorem test_L18_mvn : gives [0xD1, 0x00, 0xC0, 0x00, 0xD0, 0x00] (start [] [(0x1000, [0xF1]), (0x2000, [0xC9])])
    (fun t => readField t 0x1000 1 == [0xF9]) = true := by decide +kernel

theorem test_L18_mvz : gives [0xD3, 0x00, 0xC0, 0x00, 0xD0, 0x00] (start [] [(0x1000, [0xF1]), (0x2000, [0xC9])])
    (fun t => readField t 0x1000 1 == [0xC1]) = true := by decide +kernel

theorem test_L19_ic : gives [0x43, 0x10, 0xC0, 0x00] (start [(1, 0xAABBCCDD)] [(0x1000, [0x11])])
    (fun t => getReg t 1 == 0xAABBCC11) = true := by decide +kernel

theorem test_L19_stc : gives [0x42, 0x10, 0xC0, 0x01] (start [(1, 0xAABBCC11)] [])
    (fun t => readField t 0x1001 2 == [0x11, 0x00]) = true := by decide +kernel

theorem test_L22_mvcl_destructive : gives [0x0E, 0x24]
    (start [(2, 0x1001), (3, 0x4), (4, 0x1000), (5, 0x4)] [(0x1000, [0xC1])])
    (fun t => getReg t 2 == 0x1001 && getReg t 3 == 0x4 && getReg t 4 == 0x1000 && getReg t 5 == 0x4 &&
      t.psw.cc == 0x3 && readField t 0x1001 1 == [0x00]) = true := by decide +kernel

theorem test_L23_mvcl_pads : gives [0x0E, 0x24]
    (start [(2, 0x1000), (3, 0x6), (4, 0x2000), (5, 0x40000003)] [(0x2000, [0xC1, 0xC2, 0xC3])])
    (fun t => readField t 0x1000 6 == [0xC1, 0xC2, 0xC3, 0x40, 0x40, 0x40] && getReg t 2 == 0x1006 &&
      getReg t 3 == 0x0 && getReg t 4 == 0x2003 && getReg t 5 == 0x40000000 &&
      t.psw.cc == 0x2) = true := by decide +kernel

theorem test_L26_clcl_equal : gives [0x0F, 0x24]
    (start [(2, 0x1000), (3, 0x3), (4, 0x2000), (5, 0x40000001)] [(0x1000, [0xC1, 0x40, 0x40]), (0x2000, [0xC1])] 0x0 3)
    (fun t => t.psw.cc == 0x0 && getReg t 2 == 0x1003 && getReg t 3 == 0x0 && getReg t 4 == 0x2001 &&
      getReg t 5 == 0x40000000) = true := by decide +kernel

theorem test_L27_clcl_high : gives [0x0F, 0x24]
    (start [(2, 0x1000), (3, 0x3), (4, 0x2000), (5, 0x40000001)] [(0x1000, [0xC1, 0x40, 0xC2]), (0x2000, [0xC1])])
    (fun t => t.psw.cc == 0x2 && getReg t 2 == 0x1002 && getReg t 3 == 0x1 && getReg t 4 == 0x2001 &&
      getReg t 5 == 0x40000000) = true := by decide +kernel

theorem test_cs_equal_stores : gives [0xBA, 0x12, 0xC0, 0x00]
    (start [(1, 0x6), (2, 0x9)] [(0x1000, [0x00, 0x00, 0x00, 0x06])] 0x0 1)
    (fun t => t.psw.cc == 0x0 && readField t 0x1000 4 == [0x00, 0x00, 0x00, 0x09] &&
      getReg t 1 == 0x6) = true := by decide +kernel

theorem test_L28_cs_unequal : gives [0xBA, 0x12, 0xC0, 0x00]
    (start [(1, 0x5), (2, 0x9)] [(0x1000, [0x00, 0x00, 0x00, 0x06])])
    (fun t => getReg t 1 == 0x6 && t.psw.cc == 0x1 &&
      readField t 0x1000 4 == [0x00, 0x00, 0x00, 0x06]) = true := by decide +kernel

theorem test_cds_unequal : gives [0xBB, 0x24, 0xC0, 0x00]
    (start [(2, 0x1), (3, 0x2), (4, 0x3), (5, 0x4)] [(0x1000, [0x00, 0x00, 0x00, 0x01, 0x00, 0x00, 0x00, 0x03])])
    (fun t => getReg t 2 == 0x1 && getReg t 3 == 0x3 && t.psw.cc == 0x1) = true := by decide +kernel

theorem test_L29_cs_misaligned : gives [0xBA, 0x12, 0xC0, 0x02] (start [] [])
    (fun t => code t == 0x6) = true := by decide +kernel

theorem test_L30_ts : gives [0x93, 0x00, 0xC0, 0x00] (start [] [(0x1000, [0x80])])
    (fun t => t.psw.cc == 0x1 && readField t 0x1000 1 == [0xFF]) = true := by decide +kernel

theorem test_oi : gives [0x96, 0x0F, 0xC0, 0x00] (start [] [(0x1000, [0x80])])
    (fun t => t.psw.cc == 0x1 && readField t 0x1000 1 == [0x8F]) = true := by decide +kernel

theorem test_mvi : gives [0x92, 0x40, 0xC0, 0x00] (start [] [])
    (fun t => readField t 0x1000 1 == [0x40]) = true := by decide +kernel

theorem test_cli_low : gives [0x95, 0x40, 0xC0, 0x00] (start [] [(0x1000, [0x3F])])
    (fun t => t.psw.cc == 0x1) = true := by decide +kernel

theorem test_B1_bc_taken : gives [0x47, 0x80, 0x03, 0x00] (start [] [] 0x0 0)
    (fun t => t.psw.pc == 0x300) = true := by decide +kernel

theorem test_B3_bc_code_3 : gives [0x47, 0x10, 0x03, 0x00] (start [] [] 0x0 3)
    (fun t => t.psw.pc == 0x300) = true := by decide +kernel

theorem test_B5_bcr_odd : gives [0x07, 0xFE] (start [(14, 0xFF000301)] [])
    (fun t => t.psw.pc == 0x301 && quiet t) = true := by decide +kernel

theorem test_B6_bcr_zero : gives [0x07, 0xF0] (start [(0, 0x400)] [])
    (fun t => t.psw.pc == 0x202) = true := by decide +kernel

theorem test_B7_bal : gives [0x45, 0xE0, 0x03, 0x00] (start [] [] 0xC 2)
    (fun t => getReg t 14 == 0xAC000204 && t.psw.pc == 0x300) = true := by decide +kernel

theorem test_B8_balr : gives [0x05, 0xEF] (start [(15, 0x300)] [] 0x0 1)
    (fun t => getReg t 14 == 0x50000202 && t.psw.pc == 0x300) = true := by decide +kernel

theorem test_B9_balr_same_register : gives [0x05, 0xEE] (start [(14, 0x400)] [])
    (fun t => getReg t 14 == 0x40000202 && t.psw.pc == 0x400) = true := by decide +kernel

theorem test_B10_bas : gives [0x4D, 0xE0, 0x03, 0x00] (start [] [] 0x0 2)
    (fun t => getReg t 14 == 0x204 && t.psw.pc == 0x300) = true := by decide +kernel

theorem test_B10_basr_zero : gives [0x0D, 0xE0] (start [] [] 0x0 2)
    (fun t => getReg t 14 == 0x202 && t.psw.pc == 0x202) = true := by decide +kernel

theorem test_B11_bct_ends : gives [0x46, 0x30, 0x03, 0x00] (start [(3, 0x1)] [])
    (fun t => getReg t 3 == 0x0 && t.psw.pc == 0x204) = true := by decide +kernel

theorem test_B12_bct_from_zero : gives [0x46, 0x30, 0x03, 0x00] (start [(3, 0x0)] [])
    (fun t => getReg t 3 == 0xFFFFFFFF && t.psw.pc == 0x300) = true := by decide +kernel

theorem test_bctr_zero_counts : gives [0x06, 0x30] (start [(3, 0x5), (0, 0x300)] [])
    (fun t => getReg t 3 == 0x4 && t.psw.pc == 0x202) = true := by decide +kernel

theorem test_B13_bxh : gives [0x86, 0x12, 0x03, 0x00] (start [(1, 0x8), (2, 0x4), (3, 12)] [])
    (fun t => getReg t 1 == 12 && t.psw.pc == 0x204) = true := by decide +kernel

theorem test_B14_bxle : gives [0x87, 0x12, 0x03, 0x00] (start [(1, 0x8), (2, 0x4), (3, 12)] [])
    (fun t => getReg t 1 == 12 && t.psw.pc == 0x300) = true := by decide +kernel

theorem test_B15_bxh_odd_increment : gives [0x86, 0x13, 0x03, 0x00] (start [(3, 0xFFFFFFFF)] [])
    (fun t => getReg t 1 == 0xFFFFFFFF && t.psw.pc == 0x204) = true := by decide +kernel

theorem test_B16_bxle_overflow : gives [0x87, 0x12, 0x03, 0x00] (start [(1, 0x7FFFFFFF), (2, 0x1)] [])
    (fun t => getReg t 1 == 0x80000000 && t.psw.pc == 0x300) = true := by decide +kernel

theorem test_Y1_lpsw : gives [0x82, 0x00, 0x01, 0x00]
    (start [] [(0x100, [0xFF, 0x04, 0x00, 0x00, 0x20, 0x00, 0x03, 0x00])])
    (fun t => t.psw == ⟨0x000300, 2, 0, 0xFF, 0x0, true, false, 0, 2⟩ && quiet t) = true := by decide +kernel

theorem test_Y2_lpsw_ec : gives [0x82, 0x00, 0x01, 0x00]
    (start [] [(0x100, [0x00, 0x08, 0x00, 0x00, 0x00, 0x00, 0x03, 0x00])])
    (fun t => t.result == .pswLoadFault .unsupportedMode && t.psw.pc == 0x204) = true := by decide +kernel

theorem test_Y6_stnsm : gives [0xAC, 0xFE, 0x05, 0x00] (setSm (start [] []) 0xFF)
    (fun t => readField t 0x500 1 == [0xFF] && t.psw.sm == 0xFE) = true := by decide +kernel

theorem test_Y7_stosm : gives [0xAD, 0x80, 0x05, 0x00] (start [] [])
    (fun t => readField t 0x500 1 == [0x00] && t.psw.sm == 0x80) = true := by decide +kernel

theorem test_ssm : gives [0x80, 0x00, 0x05, 0x00] (start [] [(0x500, [0x7F])])
    (fun t => t.psw.sm == 0x7F) = true := by decide +kernel

theorem test_Y8_spm : gives [0x04, 0x20] (start [(2, 0xFF000000)] [])
    (fun t => t.psw.cc == 0x3 && t.psw.pm == 0xF) = true := by decide +kernel

theorem test_spm_low : gives [0x04, 0x20] (start [(2, 0x10000000)] [] 0xF 3)
    (fun t => t.psw.cc == 0x1 && t.psw.pm == 0x0) = true := by decide +kernel

theorem test_Y10_ssk : gives [0x08, 0x12] (start [(1, 0xF1), (2, 0x1000)] [])
    (fun t => readKey t 2 == 0xF0) = true := by decide +kernel

theorem test_Y10_isk : gives [0x09, 0x3C] (start [(3, 0xAAAAAAAA)] [])
    (fun t => getReg t 3 == 0xAAAAAA00) = true := by decide +kernel

theorem test_Y11_svc : gives [0x0A, 0xFF] (start [] [(96, [0x00, 0x00, 0x00, 0x00, 0x00, 0x00, 0x20, 0x00])] 0x4 1)
    (fun t => readField t 0x20 8 == [0x00, 0x01, 0x00, 0xFF, 0x54, 0x00, 0x02, 0x02] && t.psw.pc == 0x2000 &&
      t.psw.cc == 0x0 && t.psw.pm == 0x0) = true := by decide +kernel

theorem test_stck_code : gives [0xB2, 0x05, 0xC0, 0x00] (start [] [] 0x0 3)
    (fun t => t.psw.cc == 0x0) = true := by decide +kernel

theorem test_P7_ex_length : gives [0x44, 0x10, 0xC0, 0x00]
    (start [(1, 0xFFFFFF03)] [(0x1000, [0xD2, 0x00, 0x20, 0x00, 0x20, 0x10]), (0x10, [0xC1, 0xC2, 0xC3, 0xC4, 0xC5])])
    (fun t => t.psw.pc == 0x204 && t.psw.ilc == 0x2 &&
      readField t 0x1000 2 == [0xD2, 0x00]) = true := by decide +kernel

theorem test_ex_hands_off : gives [0x44, 0x00, 0xC0, 0x00] (start [] [(0x1000, [0x9C, 0x00, 0x00, 0x0C])])
    (fun t => t.result == .sentinel .io 0x9C00 && t.psw.pc == 0x204) = true := by decide +kernel

/-! Floating point (vectors F). -/

theorem test_F2_sdr_significance : gives [0x2B, 0x02]
    (withF [(.f0, 0x4110000000000000), (.f2, 0x4110000000000000)] (start [] [] 0x1))
    (fun t => img t .f0 == 0x0000000000000000 && code t == 0xE) = true := by decide +kernel

theorem test_F5_adr_truncates : gives [0x2A, 0x02]
    (withF [(.f0, 0x4210000000000000), (.f2, 0xC0FFFFFFFFFFFFFF)] (start [] []))
    (fun t => img t .f0 == 0x41F0000000000000 && t.psw.cc == 0x2) = true := by decide +kernel

theorem test_F7_adr_exponent_overflow : gives [0x2A, 0x02]
    (withF [(.f0, 0x7FFFFFFFFFFFFFFF), (.f2, 0x7FFFFFFFFFFFFFFF)] (start [] []))
    (fun t => img t .f0 == 0x001FFFFFFFFFFFFF && code t == 0xC) = true := by decide +kernel

theorem test_F8_sdr_underflow : gives [0x2B, 0x02]
    (withF [(.f0, 0x0011000000000000), (.f2, 0x0010000000000000)] (start [] [] 0x2))
    (fun t => img t .f0 == 0x7F10000000000000 && code t == 0xD) = true := by decide +kernel

theorem test_F10_swr_no_underflow : gives [0x2F, 0x02]
    (withF [(.f0, 0x0011000000000000), (.f2, 0x0010000000000000)] (start [] [] 0x2))
    (fun t => img t .f0 == 0x0000000000000000 && t.psw.cc == 0x0 && quiet t) = true := by decide +kernel

theorem test_awr : gives [0x2E, 0x02] (withF [(.f0, 0x4110000000000000), (.f2, 0xC130000000000000)] (start [] []))
    (fun t => img t .f0 == 0xC120000000000000 && t.psw.cc == 0x1) = true := by decide +kernel

theorem test_F12_ae_short_operands : gives [0x7A, 0x00, 0xC0, 0x00]
    (withF [(.f0, 0x4130000012345678)] (start [] [(0x1000, [0xC1, 0x30, 0x00, 0x00])] 0x1))
    (fun t => img t .f0 == 0x0000000000000000 && code t == 0xE) = true := by decide +kernel

theorem test_F13_au_six_digits : gives [0x7E, 0x00, 0xC0, 0x00]
    (withF [(.f0, 0x4110000000000000)] (start [] [(0x1000, [0x40, 0x00, 0x00, 0x01])]))
    (fun t => img t .f0 == 0x4110000000000000 && t.psw.cc == 0x2) = true := by decide +kernel

theorem test_F14_aw_true_zero : gives [0x6E, 0x00, 0xC0, 0x00]
    (withF [(.f0, 0x4128000000000000)] (start [] [(0x1000, [0x4E])]))
    (fun t => img t .f0 == 0x4128000000000000 && t.psw.cc == 0x2) = true := by decide +kernel

theorem test_F15_mdr_overflow : gives [0x2C, 0x02]
    (withF [(.f0, 0x7F10000000000000), (.f2, 0x4210000000000000)] (start [] []))
    (fun t => img t .f0 == 0x0010000000000000 && code t == 0xC) = true := by decide +kernel

theorem test_F18_mer_long_product : gives [0x3C, 0x02]
    (withF [(.f0, 0x41FFFFFF00000000), (.f2, 0x41FFFFFF00000000)] (start [] []))
    (fun t => img t .f0 == 0x42FFFFFE00000100) = true := by decide +kernel

theorem test_F19_mdr : gives [0x2C, 0x02] (withF [(.f0, 0x401999999999999A), (.f2, 0x41A0000000000000)] (start [] []))
    (fun t => img t .f0 == 0x4110000000000000) = true := by decide +kernel

theorem test_F20_ddr : gives [0x2D, 0x02] (withF [(.f0, 0x4110000000000000), (.f2, 0x4130000000000000)] (start [] []))
    (fun t => img t .f0 == 0x4055555555555555) = true := by decide +kernel

theorem test_F21_der : gives [0x3D, 0x02] (withF [(.f0, 0x4110000000000000), (.f2, 0x4130000000000000)] (start [] []))
    (fun t => img t .f0 == 0x4055555500000000) = true := by decide +kernel

theorem test_F22_ddr_zero : gives [0x2D, 0x02] (withF [(.f0, 0x4110000000000000)] (start [] []))
    (fun t => img t .f0 == 0x4110000000000000 && code t == 0xF) = true := by decide +kernel

theorem test_F24_dd_underflow : gives [0x6D, 0x00, 0xC0, 0x00]
    (withF [(.f0, 0x0010000000000000)] (start [] [(0x1000, [0x7F, 0x10])] 0x2))
    (fun t => img t .f0 == 0x4210000000000000 && code t == 0xD) = true := by decide +kernel

theorem test_me : gives [0x7C, 0x00, 0xC0, 0x00]
    (withF [(.f0, 0x4130000000000000)] (start [] [(0x1000, [0x41, 0x20])]))
    (fun t => img t .f0 == 0x4160000000000000) = true := by decide +kernel

theorem test_de : gives [0x7D, 0x00, 0xC0, 0x00]
    (withF [(.f0, 0x4160000000000000)] (start [] [(0x1000, [0x41, 0x20])]))
    (fun t => img t .f0 == 0x4130000000000000) = true := by decide +kernel

theorem test_md : gives [0x6C, 0x00, 0xC0, 0x00]
    (withF [(.f0, 0x4130000000000000)] (start [] [(0x1000, [0x41, 0x20])]))
    (fun t => img t .f0 == 0x4160000000000000) = true := by decide +kernel

theorem test_se : gives [0x7B, 0x00, 0xC0, 0x00]
    (withF [(.f0, 0x4130000000000000)] (start [] [(0x1000, [0x41, 0x20])]))
    (fun t => img t .f0 == 0x4110000000000000 && t.psw.cc == 0x2) = true := by decide +kernel

theorem test_su : gives [0x7F, 0x00, 0xC0, 0x00]
    (withF [(.f0, 0x4120000000000000)] (start [] [(0x1000, [0x41, 0x30])]))
    (fun t => img t .f0 == 0xC110000000000000 && t.psw.cc == 0x1) = true := by decide +kernel

theorem test_sw : gives [0x6F, 0x00, 0xC0, 0x00]
    (withF [(.f0, 0x4120000000000000)] (start [] [(0x1000, [0x41, 0x30])]))
    (fun t => img t .f0 == 0xC110000000000000 && t.psw.cc == 0x1) = true := by decide +kernel

theorem test_ad : gives [0x6A, 0x00, 0xC0, 0x00]
    (withF [(.f0, 0x4120000000000000)] (start [] [(0x1000, [0x41, 0x30])]))
    (fun t => img t .f0 == 0x4150000000000000 && t.psw.cc == 0x2) = true := by decide +kernel

theorem test_sd : gives [0x6B, 0x00, 0xC0, 0x00]
    (withF [(.f0, 0x4120000000000000)] (start [] [(0x1000, [0x41, 0x30])]))
    (fun t => img t .f0 == 0xC110000000000000 && t.psw.cc == 0x1) = true := by decide +kernel

theorem test_F25_hdr : gives [0x24, 0x20] (withF [(.f0, 0x4110000000000001)] (start [] []))
    (fun t => img t .f2 == 0x4080000000000008) = true := by decide +kernel

theorem test_F26_hdr_underflow : gives [0x24, 0x20] (withF [(.f0, 0x0010000000000000)] (start [] [] 0x2))
    (fun t => img t .f2 == 0x7F80000000000000 && code t == 0xD) = true := by decide +kernel

theorem test_her : gives [0x34, 0x20] (withF [(.f0, 0x4130000012345678)] (start [] []))
    (fun t => img t .f2 == 0x4118000000000000) = true := by decide +kernel

theorem test_F28_le_normalizes : gives [0x78, 0x00, 0xC0, 0x00]
    (withF [(.f0, 0x4110000000000000)] (start [] [(0x1000, [0x45, 0x00, 0x00, 0x01])]))
    (fun t => img t .f0 == 0x4010000000000000) = true := by decide +kernel

theorem test_F29_le_below_range : gives [0x78, 0x00, 0xC0, 0x00] (start [] [(0x1000, [0x00, 0x00, 0x00, 0x01])])
    (fun t => img t .f0 == 0x0000000100000000) = true := by decide +kernel

theorem test_std : gives [0x60, 0x20, 0xC0, 0x00] (withF [(.f2, 0xC123456789ABCDEF)] (start [] []))
    (fun t => readField t 0x1000 8 == [0xC1, 0x23, 0x45, 0x67, 0x89, 0xAB, 0xCD, 0xEF]) = true := by decide +kernel

theorem test_ste : gives [0x70, 0x20, 0xC0, 0x00] (withF [(.f2, 0xC123456789ABCDEF)] (start [] []))
    (fun t => readField t 0x1000 5 == [0xC1, 0x23, 0x45, 0x67, 0x00]) = true := by decide +kernel

theorem test_ld : gives [0x68, 0x20, 0xC0, 0x00]
    (start [] [(0x1000, [0xC1, 0x23, 0x45, 0x67, 0x89, 0xAB, 0xCD, 0xEF])])
    (fun t => img t .f2 == 0xC123456789ABCDEF) = true := by decide +kernel

theorem test_F31_lrer_down : gives [0x35, 0x02] (withF [(.f2, 0x411234567FFFFFFF)] (start [] []))
    (fun t => img t .f0 == 0x4112345600000000) = true := by decide +kernel

theorem test_F33_lrer_overflow : gives [0x35, 0x02] (withF [(.f2, 0x7FFFFFFFFFFFFFFF)] (start [] []))
    (fun t => img t .f0 == 0x0010000000000000 && code t == 0xC) = true := by decide +kernel

theorem test_F34_cdr : gives [0x29, 0x20] (withF [(.f2, 0x415C000000000000), (.f0, 0x41B8000000000000)] (start [] []))
    (fun t => t.psw.cc == 0x1) = true := by decide +kernel

theorem test_cer_short : gives [0x39, 0x02]
    (withF [(.f0, 0x41100000FFFFFFFF), (.f2, 0x4110000000000000)] (start [] [] 0x0 3))
    (fun t => t.psw.cc == 0x0) = true := by decide +kernel

theorem test_cd : gives [0x69, 0x00, 0xC0, 0x00]
    (withF [(.f0, 0x41B8000000000000)] (start [] [(0x1000, [0x41, 0x5C])]))
    (fun t => t.psw.cc == 0x2) = true := by decide +kernel

theorem test_ce : gives [0x79, 0x00, 0xC0, 0x00]
    (withF [(.f0, 0xC1B8000000000000)] (start [] [(0x1000, [0x41, 0x5C])]))
    (fun t => t.psw.cc == 0x1) = true := by decide +kernel

theorem test_F35_ltdr : gives [0x22, 0x00] (withF [(.f0, 0xC110000000000000)] (start [] []))
    (fun t => img t .f0 == 0xC110000000000000 && t.psw.cc == 0x1) = true := by decide +kernel

theorem test_F35_lcdr : gives [0x23, 0x00] (withF [(.f0, 0xC110000000000000)] (start [] []))
    (fun t => img t .f0 == 0x4110000000000000 && t.psw.cc == 0x2) = true := by decide +kernel

theorem test_F35_lpdr : gives [0x20, 0x00] (withF [(.f0, 0xC110000000000000)] (start [] []))
    (fun t => img t .f0 == 0x4110000000000000 && t.psw.cc == 0x2) = true := by decide +kernel

theorem test_F35_lndr : gives [0x21, 0x00] (withF [(.f0, 0xC110000000000000)] (start [] []))
    (fun t => img t .f0 == 0xC110000000000000 && t.psw.cc == 0x1) = true := by decide +kernel

theorem test_lter_short : gives [0x32, 0x20] (withF [(.f0, 0xC110000012345678)] (start [] []))
    (fun t => img t .f2 == 0xC110000000000000 && t.psw.cc == 0x1) = true := by decide +kernel

theorem test_lcer_short : gives [0x33, 0x20] (withF [(.f0, 0xC110000012345678)] (start [] []))
    (fun t => img t .f2 == 0x4110000000000000 && t.psw.cc == 0x2) = true := by decide +kernel

theorem test_lper_short : gives [0x30, 0x20] (withF [(.f0, 0xC110000012345678)] (start [] []))
    (fun t => img t .f2 == 0x4110000000000000 && t.psw.cc == 0x2) = true := by decide +kernel

theorem test_lner_short : gives [0x31, 0x20] (withF [(.f0, 0x4110000012345678)] (start [] []))
    (fun t => img t .f2 == 0xC110000000000000 && t.psw.cc == 0x1) = true := by decide +kernel

theorem test_ler_short : gives [0x38, 0x20] (withF [(.f0, 0xC110000012345678)] (start [] []))
    (fun t => img t .f2 == 0xC110000000000000 && t.psw.cc == 0x0) = true := by decide +kernel

theorem test_ldr : gives [0x28, 0x20] (withF [(.f0, 0xC110000012345678)] (start [] []))
    (fun t => img t .f2 == 0xC110000012345678 && t.psw.cc == 0x0) = true := by decide +kernel

theorem test_aer : gives [0x3A, 0x02] (withF [(.f0, 0x4110000000000000), (.f2, 0x4110000000000000)] (start [] []))
    (fun t => img t .f0 == 0x4120000000000000 && t.psw.cc == 0x2) = true := by decide +kernel

theorem test_ser : gives [0x3B, 0x02] (withF [(.f0, 0x4110000000000000), (.f2, 0x4130000000000000)] (start [] []))
    (fun t => img t .f0 == 0xC120000000000000 && t.psw.cc == 0x1) = true := by decide +kernel

theorem test_aur : gives [0x3E, 0x02] (withF [(.f0, 0x4110000000000000), (.f2, 0x4110000000000000)] (start [] []))
    (fun t => img t .f0 == 0x4120000000000000 && t.psw.cc == 0x2) = true := by decide +kernel

theorem test_sur : gives [0x3F, 0x02] (withF [(.f0, 0x4110000000000000), (.f2, 0x4130000000000000)] (start [] []))
    (fun t => img t .f0 == 0xC120000000000000 && t.psw.cc == 0x1) = true := by decide +kernel

theorem test_F36_ldr_bad_register : gives [0x28, 0x10] (start [] [])
    (fun t => code t == 0x6) = true := by decide +kernel

/-! Packed decimal (vectors D). -/

theorem test_D3_ap_overflow_enabled : gives [0xFA, 0x10, 0xC0, 0x00, 0xD0, 0x00]
    (start [] [(0x1000, [0x99, 0x9C]), (0x2000, [0x1C])] 0x4)
    (fun t => readField t 0x1000 2 == [0x00, 0x0C] && code t == 0xA) = true := by decide +kernel

theorem test_D4_ap_overflowed_zero : gives [0xFA, 0x10, 0xC0, 0x00, 0xD0, 0x00]
    (start [] [(0x1000, [0x99, 0x9D]), (0x2000, [0x1D])])
    (fun t => readField t 0x1000 2 == [0x00, 0x0D] && t.psw.cc == 0x3) = true := by decide +kernel

theorem test_D6_sp : gives [0xFB, 0x10, 0xC0, 0x00, 0xD0, 0x00] (start [] [(0x1000, [0x00, 0x5C]), (0x2000, [0x7C])])
    (fun t => readField t 0x1000 2 == [0x00, 0x2D] && t.psw.cc == 0x1) = true := by decide +kernel

theorem test_D7_sp_self : gives [0xFB, 0x11, 0xC0, 0x00, 0xC0, 0x00] (start [] [(0x1000, [0x12, 0x3D])] 0x0 1)
    (fun t => readField t 0x1000 2 == [0x00, 0x0C] && t.psw.cc == 0x0) = true := by decide +kernel

theorem test_D8_zap_overflow : gives [0xF8, 0x12, 0xC0, 0x00, 0xD0, 0x00] (start [] [(0x2000, [0x12, 0x34, 0x5C])])
    (fun t => readField t 0x1000 2 == [0x34, 0x5C] && t.psw.cc == 0x3) = true := by decide +kernel

theorem test_D9_cp_zeros : gives [0xF9, 0x10, 0xC0, 0x00, 0xD0, 0x00]
    (start [] [(0x1000, [0x00, 0x0C]), (0x2000, [0x0D])] 0x0 1)
    (fun t => t.psw.cc == 0x0) = true := by decide +kernel

theorem test_D10_mp : gives [0xFC, 0x20, 0xC0, 0x00, 0xD0, 0x00]
    (start [] [(0x1000, [0x00, 0x01, 0x2C]), (0x2000, [0x3D])] 0x0 3)
    (fun t => readField t 0x1000 3 == [0x00, 0x03, 0x6D] && t.psw.cc == 0x3) = true := by decide +kernel

theorem test_D11_mp_length : gives [0xFC, 0x11, 0xC0, 0x00, 0xD0, 0x00] (start [] [])
    (fun t => code t == 0x6) = true := by decide +kernel

theorem test_D13_dp : gives [0xFD, 0x30, 0xC0, 0x00, 0xD0, 0x00]
    (start [] [(0x1000, [0x00, 0x00, 0x10, 0x0D]), (0x2000, [0x7C])])
    (fun t => readField t 0x1000 4 == [0x00, 0x01, 0x4D, 0x2D]) = true := by decide +kernel

theorem test_D14_dp_does_not_fit : gives [0xFD, 0x20, 0xC0, 0x00, 0xD0, 0x00]
    (start [] [(0x1000, [0x99, 0x99, 0x9C]), (0x2000, [0x1C])])
    (fun t => code t == 0xB && readField t 0x1000 3 == [0x99, 0x99, 0x9C]) = true := by decide +kernel

theorem test_D18_srp_right : gives [0xF0, 0x35, 0xC0, 0x00, 0x00, 0x3E]
    (start [] [(0x1000, [0x00, 0x12, 0x34, 0x5C])])
    (fun t => readField t 0x1000 4 == [0x00, 0x00, 0x12, 0x3C] && t.psw.cc == 0x2) = true := by decide +kernel

theorem test_D20_srp_rounds_magnitude : gives [0xF0, 0x15, 0xC0, 0x00, 0x00, 0x3F] (start [] [(0x1000, [0x00, 0x5D])])
    (fun t => readField t 0x1000 2 == [0x00, 0x1D] && t.psw.cc == 0x1) = true := by decide +kernel

theorem test_D21_pack : gives [0xF2, 0x23, 0xC0, 0x00, 0xD0, 0x00] (start [] [(0x2000, [0xF1, 0xF2, 0xF3, 0xC4])])
    (fun t => readField t 0x1000 3 == [0x01, 0x23, 0x4C]) = true := by decide +kernel

theorem test_D22_unpk : gives [0xF3, 0x42, 0xC0, 0x00, 0xD0, 0x00] (start [] [(0x2000, [0x12, 0x34, 0x5C])])
    (fun t => readField t 0x1000 5 == [0xF1, 0xF2, 0xF3, 0xF4, 0xC5]) = true := by decide +kernel

theorem test_D23_mvo : gives [0xF1, 0x32, 0xC0, 0x00, 0xD0, 0x00]
    (start [] [(0x1000, [0x77, 0x88, 0x99, 0x0C]), (0x2000, [0x12, 0x34, 0x56])])
    (fun t => readField t 0x1000 4 == [0x01, 0x23, 0x45, 0x6C]) = true := by decide +kernel

theorem test_D24_cvb : gives [0x4F, 0x30, 0xC0, 0x00]
    (start [] [(0x1000, [0x00, 0x00, 0x00, 0x00, 0x00, 0x00, 0x02, 0x5D])])
    (fun t => getReg t 3 == 0xFFFFFFE7) = true := by decide +kernel

theorem test_D25_cvb_does_not_fit : gives [0x4F, 0x30, 0xC0, 0x00]
    (start [] [(0x1000, [0x00, 0x00, 0x02, 0x14, 0x74, 0x83, 0x64, 0x8C])])
    (fun t => getReg t 3 == 0x80000000 && code t == 0x9) = true := by decide +kernel

theorem test_D26_cvd : gives [0x4E, 0x30, 0xC0, 0x00] (start [(3, 0x80000000)] [])
    (fun t => readField t 0x1000 8 == [0x00, 0x00, 0x02, 0x14, 0x74, 0x83, 0x64, 0x8D]) = true := by decide +kernel

theorem test_D27_ed : gives [0xDE, 0x0C, 0xC0, 0x00, 0xD0, 0x00]
    (start [] [(0x1000, [0x40, 0x20, 0x20, 0x6B, 0x20, 0x20, 0x21, 0x4B, 0x20, 0x20, 0x40, 0xC3, 0xD9]), (0x2000, [0x02, 0x57, 0x42, 0x6C])])
    (fun t =>
      readField t 0x1000 13 == [0x40, 0x40, 0xF2, 0x6B, 0xF5, 0xF7, 0xF4, 0x4B, 0xF2, 0xF6, 0x40, 0x40, 0x40] &&
      t.psw.cc == 0x2) = true := by decide +kernel

theorem test_D28_ed_negative : gives [0xDE, 0x0C, 0xC0, 0x00, 0xD0, 0x00]
    (start [] [(0x1000, [0x40, 0x20, 0x20, 0x6B, 0x20, 0x20, 0x21, 0x4B, 0x20, 0x20, 0x40, 0xC3, 0xD9]), (0x2000, [0x00, 0x12, 0x34, 0x5D])])
    (fun t =>
      readField t 0x1000 13 == [0x40, 0x40, 0x40, 0x40, 0xF1, 0xF2, 0xF3, 0x4B, 0xF4, 0xF5, 0x40, 0xC3, 0xD9] &&
      t.psw.cc == 0x1) = true := by decide +kernel

theorem test_D31_edmk : gives [0xDF, 0x0C, 0xC0, 0x00, 0xD0, 0x00]
    (start [(1, 0xEE000000)] [(0x1000, [0x40, 0x20, 0x20, 0x6B, 0x20, 0x20, 0x21, 0x4B, 0x20, 0x20, 0x40, 0xC3, 0xD9]), (0x2000, [0x02, 0x57, 0x42, 0x6C])])
    (fun t => getReg t 1 == 0xEE001002 && t.psw.cc == 0x2) = true := by decide +kernel

theorem test_D31_edmk_no_mark : gives [0xDF, 0x0C, 0xC0, 0x00, 0xD0, 0x00]
    (start [(1, 0xEE000000)] [(0x1000, [0x40, 0x20, 0x20, 0x6B, 0x20, 0x20, 0x21, 0x4B, 0x20, 0x20, 0x40, 0xC3, 0xD9]), (0x2000, [0x00, 0x00, 0x00, 0x0C])] 0x0 1)
    (fun t => getReg t 1 == 0xEE000000 && t.psw.cc == 0x0) = true := by decide +kernel

/-! ## The host's actions (R42, R584, R602, R613) -/

/-- A state whose latest call handed off. -/
def wHanded : State := handOffBytes (start [] []) [0xB2, 0x0D, 0, 0]

theorem test_host_keeps_record_valid :
    recordValid (hostAct (.loadPsw 0x0008000000000000) wHanded) = true ∧
    recordValid (hostAct (.programInterrupt .privilege) wHanded) = true ∧
    (hostAct (.programInterrupt .privilege) wHanded).record = wHanded.record := by decide +kernel

theorem test_host_failures :
    hostFailure (.loadPsw 0x0008000000000000) wHanded = some .unsupportedMode ∧
    hostFailure (.loadPsw 0x0002000000000000) wHanded = some .disabledWait ∧
    hostFailure (.loadPsw 0xFF02000000000000) wHanded = none := by decide +kernel

theorem test_host_reset_keeps_inputs :
    let s := { wHanded with devices := [⟨0, 0x00C, true, true⟩], clockReads := 3, statusDraws := 2 }
    hostAct (.reset [(5, 7)] []) s = { State.resetWith [(5, 7)] [] with
      devices := [⟨0, 0x00C, true, true⟩], clockReads := 3, statusDraws := 2 } := rfl

/-- A two-byte override with no row, and one shorter than its instruction: handed off, what is given in the record. -/
theorem test_override_handed_off :
    (match executeOne (some [0x00, 0x12]) (start [] []) with
      | .next t => t.result == .unknownInstruction && t.record.imm == 0x12
      | _ => false) = true ∧
    (match executeOne (some [0x5A, 0x34]) (start [] []) with
      | .next t => t.result == .unknownInstruction && t.record.imm == 0x34
      | _ => false) = true := by decide +kernel

/-! ## Witnesses: a concrete state and operands that meet the hypotheses of each obligation that has some, clause by
clause, at boundary values where a clause has a range -/

/-- A step answers a next state, said so that it can be computed. -/
def answers (s : State) : Bool := match step s with
  | .next _ => true
  | _ => false

theorem exists_next_of_answers {s : State} (h : answers s = true) : ∃ t, step s = .next t := by
  unfold answers at h
  split at h
  · exact ⟨_, ‹_›⟩
  · cases h

/-- A state about to run `AR 1,2`. -/
def wRun : State := start [(1, 5), (2, 7)] [(0x200, [0x1A, 0x12])]

theorem witness_EncodeInvertsDecode : decode [0x1A, 0x12, 0x07] = .ok (.ar 1 2, [0x07]) := by rfl

theorem witness_StepKeepsMemoryCanonical : memoryCanonical wRun = true ∧ ∃ t, step wRun = .next t :=
  ⟨by decide +kernel, exists_next_of_answers (by decide +kernel)⟩

theorem witness_StepKeepsFloatRange : wRun.fpr.wf = true ∧ ∃ t, step wRun = .next t :=
  ⟨by decide +kernel, exists_next_of_answers (by decide +kernel)⟩

theorem witness_StepKeepsControlCanonical : controlCanonical wRun = true ∧ ∃ t, step wRun = .next t :=
  ⟨by decide +kernel, exists_next_of_answers (by decide +kernel)⟩

theorem witness_StepRunsDecodedInstruction :
    let b := boundaryCheck (setResult wRun .budget)
    wRun.halt = false ∧ b.result = .budget ∧ b.psw.w = false ∧ b.psw.pc.getLsbD 0 = false ∧
      decode (readField b b.psw.pc 6) = .ok (.ar 1 2, [0, 0, 0, 0]) :=
  ⟨by decide +kernel, by decide +kernel, by decide +kernel, by decide +kernel, by rfl⟩

/-- A waiting state with one mask bit on. -/
def wWait : State := let s := start [] []; { s with psw := { s.psw with w := true, sm := 1 } }

theorem witness_StepWithoutInstruction :
    { wRun with halt := true }.halt = true ∧
    (wWait.halt = false ∧ (boundaryCheck (setResult wWait .budget)).result = .budget ∧
      (boundaryCheck (setResult wWait .budget)).psw.w = true) ∧
    (let s := setPc wRun 0xFFFFFF
     let b := boundaryCheck (setResult s .budget)
     s.halt = false ∧ b.result = .budget ∧ b.psw.w = false ∧ b.psw.pc.getLsbD 0 = true) := by decide +kernel

theorem witness_NoRowIsHandedOff :
    let s := start [] []
    let b := boundaryCheck (setResult s .budget)
    (s.halt = false ∧ b.result = .budget ∧ b.psw.w = false ∧ b.psw.pc.getLsbD 0 = false) ∧
      decode (readField b b.psw.pc 6) = .error .unknownOpcode ∧
      decode [0x9F, 0x01, 0, 0, 0, 0] = .error .unassignedIo ∧ decode [0xB2, 0xFF, 0, 0, 0, 0] = .error .unassignedPriv :=
  ⟨by decide +kernel, by rfl, by rfl, by rfl⟩

/-- Two attached devices, nothing pending; the timer is queued. -/
def wQuiet : State := { start [] [] with devices := [⟨0, 0x00C, false, false⟩, ⟨6, 0x60C, false, true⟩], queue := [.timer] }

theorem witness_BoundaryCheckIsSafe :
    (wQuiet.result = .budget ∧ wQuiet.timerPending = false ∧ (∀ d ∈ wQuiet.devices, d.async = false) ∧
      ∀ src ∈ wQuiet.queue, (wQuiet.psw.sm.getLsbD (maskBit wQuiet src) && isPending wQuiet src) = false) ∧
    (let s := { wWait with queue := [.device 1, .device 0], timerPending := true }
     s.result = .budget ∧ s.queue.Nodup) := by decide +kernel

/-- The delivery clauses: a waiting CPU with the timer and devices on channels 0, 5 and 6 pending. With no mask bit nothing
is ready; with one of the bits 1, 0, 7 and 2 the first ready source is the device on channel 6, the timer, the device on
channel 0, which has both conditions, and the device on channel 5. -/
theorem witness_BoundaryCheckIsSafe_delivery :
    let s := { wWait with
      devices := [⟨0, 0x00C, true, true⟩, ⟨5, 0x50C, true, false⟩, ⟨6, 0x60C, false, true⟩], timerPending := true
      queue := [.device 2] }
    let queue : List SourceId := [.device 2, .timer, .device 0, .device 1]
    let ready (m : BitVec 8) (x : SourceId) : Bool := deliverable { s with psw := { s.psw with sm := m } } x
    s.result = .budget ∧ s.psw.w = true ∧ (enqueueAsync s).queue = queue ∧
    (∀ x ∈ queue, ready 0 x = false) ∧
    (queue = [] ++ .device 2 :: [.timer, .device 0, .device 1] ∧ ready 2 (.device 2) = true) ∧
    (queue = [.device 2] ++ .timer :: [.device 0, .device 1] ∧ ready 1 (.device 2) = false ∧ ready 1 .timer = true) ∧
    ((∀ x ∈ [SourceId.device 2, .timer], ready 128 x = false) ∧ ready 128 (.device 0) = true) ∧
    ((∀ x ∈ [SourceId.device 2, .timer, .device 0], ready 4 x = false) ∧ ready 4 (.device 1) = true) := by decide +kernel

theorem witness_ExecuteRunsSteps : { wRun with halt := true }.halt = true := rfl

/-- New PSWs: an enabled one at 88, one with the EC bit at 96, a disabled wait at 104. -/
def wNew : State := start [] [(88, [0x01, 0x04, 0, 0, 0x10, 0, 3, 0]), (96, [0, 8, 0, 0, 0, 0, 3, 0]),
  (104, [0, 2, 0, 0, 0, 0, 3, 0])]

theorem witness_InterruptionSwapsPsw : memoryCanonical wNew = true ∧ (readByte wNew (88 + 1)).getLsbD 3 = false ∧
    (readByte wNew (96 + 1)).getLsbD 3 = true := by decide +kernel

theorem witness_PswImageRoundTrip : (memoryCanonical wRun = true ∧ (wRun.psw.w = false ∨ wRun.psw.sm ≠ 0)) ∧
    (memoryCanonical wWait = true ∧ (wWait.psw.w = false ∨ wWait.psw.sm ≠ 0)) ∧
    (0xFFF7FFFFFFFFFFFF#64).getLsbD 51 = false := by decide +kernel

theorem pswLoads_of {s : State} {a : Addr} (h : (readByte s (a + 1)).getLsbD 3 = false)
    (k : (!(readByte s (a + 1)).getLsbD 1 || readByte s a != 0) = true) : pswLoads s a :=
  ⟨h, fun ⟨h1, h2⟩ => by rw [h1, h2] at k; exact absurd k (by decide)⟩

theorem witness_LpswLoadsAndReturns :
    ((ea wNew 0 88).toNat % 8 = 0 ∧ pswLoads wNew (ea wNew 0 88)) ∧
    (let s := initiate wRun 40 104 0x000C
     (ea s 0 40).toNat % 8 = 0 ∧ memoryCanonical wRun = true ∧ (wRun.psw.w = false ∨ wRun.psw.sm ≠ 0) ∧
       s = initiate wRun (ea s 0 40) 104 0x000C) :=
  ⟨⟨by decide +kernel, pswLoads_of (by decide +kernel) (by decide +kernel)⟩, by decide +kernel⟩

/-- LPSW of the image at 96 with the EC bit, and of the one at 104 that waits with the mask zero. -/
theorem witness_LpswLoadsAndReturns_failures :
    ((ea wNew 0 96).toNat % 8 = 0 ∧ (readByte wNew (ea wNew 0 96 + 1)).getLsbD 3 = true) ∧
    ((ea wNew 0 104).toNat % 8 = 0 ∧ (readByte wNew (ea wNew 0 104 + 1)).getLsbD 3 = false ∧
      (readByte wNew (ea wNew 0 104 + 1)).getLsbD 1 = true ∧ readByte wNew (ea wNew 0 104) = 0) := by decide +kernel

theorem witness_SupervisorCall : (memoryCanonical wRun = true ∧ pswLoads wRun 96) ∧
    (memoryCanonical wNew = true ∧ (readByte wNew 97).getLsbD 3 = true) ∧
    (let s := start [] [(96, [0, 2])]
     memoryCanonical s = true ∧ (readByte s 97).getLsbD 3 = false ∧ (readByte s 97).getLsbD 1 = true ∧
       readByte s 96 = 0) :=
  ⟨⟨by decide +kernel, pswLoads_of (by decide +kernel) (by decide +kernel)⟩, by decide +kernel, by decide +kernel⟩

/-- A memory and keys in canonical form, with the highest byte and key listed: hypotheses of ResetMeetsInvariants. -/
theorem witness_ResetMeetsInvariants :
    Memory.wf memorySize [(0, 0x12), (0xFFFFFF, 0xFF)] = true ∧ Memory.wf keyCount [(8191, 0xF8)] = true := by
  decide +kernel

theorem witness_SpecificationTraps : (15#4).getLsbD 0 = true ∧ fregOf 1 = none ∧ fregOf 8 = none ∧
    (ea wRun 0 0xFFC).toNat % 8 ≠ 0 ∧ (ea wRun 0 0xFFE).toNat % 4 ≠ 0 ∧ (ea wRun 0 4).toNat % 8 ≠ 0 ∧
    (8 ≤ (8#4).toNat ∨ (15#4).toNat ≤ (8#4).toNat) ∧ (8 ≤ (7#4).toNat ∨ (7#4).toNat ≤ (7#4).toNat) := by
  decide +kernel

/-- A canonical memory: the only hypothesis of WideAccessIsBigEndian's write, RegisterStores, MultipleRegisters' store,
BooleanOperations on bytes, FieldOperations, TR, MasksAndStorageKeys' stores, StoreClockIncreases, PackUnpackMove,
CVD and TimerTickCounts. -/
theorem witness_memoryCanonical : memoryCanonical wRun = true ∧ memoryCanonical wNew = true ∧
    memoryCanonical State.reset = true ∧ memoryCanonical (writeByte wRun 0xFFFFFF 0xFF) = true := by decide +kernel

theorem witness_StoreClockIncreases : State.reset.lastClock.toNat < 2 ^ 64 - 1 ∧
    { State.reset with lastClock := BitVec.ofNat 64 (2 ^ 64 - 2) }.lastClock.toNat < 2 ^ 64 - 1 := by decide +kernel

theorem witness_SignedResultInRange :
    let s := start [(1, 0x7FFFFFFE), (2, 1), (3, 0x80000001), (4, 0xFFFFFFFF)] []
    fitsWord ((getReg s 1).toInt + (getReg s 2).toInt) ∧ fitsWord ((getReg s 3).toInt + (getReg s 4).toInt) ∧
      fitsWord (-(getReg s 3).toInt) ∧ fitsWord |(getReg s 3).toInt| ∧ fitsWord (-|(getReg s 3).toInt|) := by
  unfold fitsWord; decide +kernel

theorem witness_SignedOverflow :
    let s := start [(1, 0x7FFFFFFF), (2, 1), (3, 0x80000000), (4, 0xFFFFFFFF)] []
    ¬fitsWord ((getReg s 1).toInt + (getReg s 2).toInt) ∧ ¬fitsWord ((getReg s 3).toInt + (getReg s 4).toInt) ∧
      ¬fitsWord (-(getReg s 3).toInt) ∧ ¬fitsWord |(getReg s 3).toInt| ∧ s.psw.pm.getLsbD 3 = false ∧
      (setPm s 8).psw.pm.getLsbD 3 = true := by unfold fitsWord; decide +kernel

theorem witness_MultiplyProducts : isEven 0 = true ∧ isEven 14 = true := by decide

theorem witness_DivideResults :
    let s := start [(2, 0xFFFFFFFF), (3, 0x80000000), (4, 1), (5, 0xFFFFFFFF)] []
    isEven 2 = true ∧ ((getReg s 4).toInt ≠ 0 ∧ fitsWord ((getPair s 2).toInt.tdiv (getReg s 4).toInt)) ∧
      (getReg s 6).toInt = 0 ∧ ¬fitsWord ((getPair s 2).toInt.tdiv (getReg s 5).toInt) := by
  unfold fitsWord; decide +kernel

theorem witness_SingleShifts :
    let s := start [(1, 0xC0000000), (2, 0x40000000)] []
    fitsWord ((getReg s 1).toInt * 2 ^ ((ea s 0 1).toNat % 64)) ∧
      ¬fitsWord ((getReg s 2).toInt * 2 ^ ((ea s 0 1).toNat % 64)) ∧ s.psw.pm.getLsbD 3 = false ∧
      (setPm s 8).psw.pm.getLsbD 3 = true := by unfold fitsWord; decide +kernel

theorem witness_DoubleShifts :
    let s := start [(2, 0xC0000000), (4, 0x40000000)] []
    isEven 2 = true ∧ isEven 4 = true ∧
      (-2 ^ 63 ≤ (getPair s 2).toInt * 2 ^ ((ea s 0 1).toNat % 64) ∧
        (getPair s 2).toInt * 2 ^ ((ea s 0 1).toNat % 64) < 2 ^ 63) ∧
      ¬(-2 ^ 63 ≤ (getPair s 4).toInt * 2 ^ ((ea s 0 1).toNat % 64) ∧
        (getPair s 4).toInt * 2 ^ ((ea s 0 1).toNat % 64) < 2 ^ 63) := by decide +kernel

theorem witness_TranslateFields :
    let s := start [] [(0x1000, [0x40, 0x6B]), (0x206B, [4])]
    let entry (k : Nat) : Addr := ea s 13 0 + (readByte s (ea s 12 0 + BitVec.ofNat 24 k)).setWidth 24
    (∀ k ≤ 0, readByte s (entry k) = 0) ∧ (1 ≤ 1 ∧ (∀ j < 1, readByte s (entry j) = 0) ∧ readByte s (entry 1) ≠ 0) := by
  decide +kernel

theorem witness_MoveLong :
    let s := start [(2, 0x1003), (3, 4), (4, 0x1000), (5, 4), (6, 0x1004)] []
    (memoryCanonical s = true ∧ isEven 2 = true ∧ isEven 4 = true ∧ isEven 6 = true) ∧
      (0 < (0x1003#24 - 0x1000).toNat ∧ (0x1003#24 - 0x1000).toNat < min 4 4) ∧
      ¬(0 < (0x1004#24 - 0x1000).toNat ∧ (0x1004#24 - 0x1000).toNat < min 4 4) ∧
      (getReg s 2).extractLsb' 0 24 = 0x1003 ∧ (getReg s 4).extractLsb' 0 24 = 0x1000 := by decide +kernel

/-- Operands of 1 and 3 bytes, the shorter padded with 40: place 1 of the second pair of operands differs, the first
pair agrees to the end. -/
theorem witness_CompareLong :
    let s := start [] [(0x1000, [0xC1, 0x40, 0x40]), (0x1010, [0xC1, 0x41])]
    let u (k : Nat) : Byte := if k < 3 then readByte s (0x1000 + BitVec.ofNat 24 k) else 0x40
    let v (k : Nat) : Byte := if k < 1 then readByte s (0x1010 + BitVec.ofNat 24 k) else 0x40
    let w (k : Nat) : Byte := if k < 2 then readByte s (0x1010 + BitVec.ofNat 24 k) else 0x40
    isEven 2 = true ∧ (3 ≤ max 3 1 ∧ ∀ j < 3, u j = v j) ∧ (1 ≤ max 3 2 ∧ (∀ j < 1, u j = w j) ∧ u 1 ≠ w 1) := by
  decide +kernel

theorem witness_CompareAndSwap :
    let s := start [(2, 6), (3, 7)] [(0x1000, [0, 0, 0, 6, 0, 0, 0, 7])]
    (memoryCanonical s = true ∧ isEven 2 = true ∧ isEven 4 = true ∧ (ea s 12 0).toNat % 4 = 0 ∧
      (ea s 12 0).toNat % 8 = 0) ∧ read32 s (ea s 12 0) = getReg s 2 ∧ read32 s (ea s 12 0) ≠ getReg s 3 ∧
      read64 s (ea s 12 0) = getPair s 2 ∧ read64 s (ea s 12 0) ≠ getPair s 4 := by decide +kernel

/-- Targets of EX at X'1000' on: `MVC`, an I/O opcode with no row, EX; the odd address X'1001'. -/
theorem witness_ExecuteRunsTarget :
    let s := start [(1, 0xFFFFFF03)] [(0x1000, [0xD2, 0, 0x20, 0, 0x20, 0x10]), (0x1010, [0x9D, 1]), (0x1020, [0x44])]
    (s.exTarget = false ∧ (eax s 0 12 0).getLsbD 0 = false ∧ readByte s (eax s 0 12 0) ≠ 0x44) ∧
    (decode (readByte s (eax s 0 12 0) :: (readByte s (eax s 0 12 0 + 1) ||| (getReg s 1).extractLsb' 0 8) ::
      readField s (eax s 0 12 0 + 2) 4) = .ok (.mvc 3 2 0 2 0x10, [])) ∧
    (decode (readByte s (eax s 0 12 16) :: (readByte s (eax s 0 12 16 + 1) ||| 0) :: readField s (eax s 0 12 16 + 2) 4) =
      .error .unassignedIo) ∧
    ({ s with exTarget := true }.exTarget = true ∧ (eax s 0 12 1).getLsbD 0 = true ∧
      readByte s (eax s 0 12 32) = 0x44) :=
  ⟨by decide +kernel, by rfl, by rfl, by decide +kernel⟩

theorem witness_fregOf : fregOf 0 = some .f0 ∧ fregOf 2 = some .f2 ∧ fregOf 4 = some .f4 ∧ fregOf 6 = some .f6 := by
  decide

theorem witness_FloatImages : memoryCanonical wRun = true ∧ fregOf 6 = some .f6 ∧
    (⟨false, true, 2 ^ 52, -64⟩ : FloatValue).wf = true ∧ (⟨false, false, 2 ^ 56 - 1, 63⟩ : FloatValue).wf = true ∧
    (⟨false, true, 2 ^ 52, -65⟩ : FloatValue).wf = true ∧ (⟨false, true, 2 ^ 52, -77⟩ : FloatValue).wf = true ∧
    (⟨true, false, 0, -64⟩ : FloatValue).wf = true := by decide +kernel

/-- A FloatValue of at most `D` digits is the truncation of its own number. -/
theorem truncatesTo_val (D : Nat) (pos : Bool) (N : Nat) (e : Int) (hD : D ≤ 14) (h : 16 ^ (D - 1) ≤ N)
    (k : N < 16 ^ D) :
    TruncatesTo D (FloatValue.val ⟨false, pos, N * 16 ^ (14 - D), e⟩) ⟨false, pos, N * 16 ^ (14 - D), e⟩ := by
  have hp : (0 : ℚ) < 16 ^ (e - D) := by positivity
  have hN : (0 : ℚ) < N := by
    have : 0 < N := lt_of_lt_of_le (by positivity) h
    exact_mod_cast this
  have hm : (0 : ℚ) < N * 16 ^ (e - D) := mul_pos hN hp
  have hx : ((N * 16 ^ (14 - D) : ℕ) : ℚ) * 16 ^ (e - 14) = N * 16 ^ (e - D) := by
    push_cast
    rw [mul_assoc, ← zpow_natCast, ← zpow_add₀ (by norm_num), Nat.cast_sub hD]
    congr 2; push_cast; ring
  cases pos
  · have hv : FloatValue.val ⟨false, false, N * 16 ^ (14 - D), e⟩ = -(N * 16 ^ (e - D)) := by
      rw [← hx]; simp [FloatValue.val]
    rw [hv, TruncatesTo, if_neg (by linarith : ¬-(N * (16 : ℚ) ^ (e - D)) = 0)]
    refine ⟨rfl, by simp; linarith, N, rfl, h, k, ?_, ?_⟩ <;> rw [abs_neg, abs_of_pos hm]
    exact mul_lt_mul_of_pos_right (by linarith) hp
  · have hv : FloatValue.val ⟨false, true, N * 16 ^ (14 - D), e⟩ = N * 16 ^ (e - D) := by
      rw [← hx]; simp [FloatValue.val]
    rw [hv, TruncatesTo, if_neg hm.ne']
    refine ⟨rfl, by simp; linarith, N, rfl, h, k, ?_, ?_⟩ <;> rw [abs_of_pos hm]
    exact mul_lt_mul_of_pos_right (by linarith) hp

theorem truncatesTo_long (F : Nat) (e : Int) (h : 16 ^ 13 ≤ F) (k : F < 16 ^ 14) :
    TruncatesTo 14 (FloatValue.val ⟨false, true, F, e⟩) ⟨false, true, F, e⟩ := by
  simpa using truncatesTo_val 14 true F e (le_refl _) h k

/-- The number 1, the greatest and the least leading digits at the ends of the exponent range, and a subtrahend. -/
def wFloat : State := withF [(.f0, 0x4110000000000000), (.f2, 0x7F80000000000000), (.f4, 0x0011000000000000),
  (.f6, 0x0010000000000000)] (start [] [(0x1000, [0x7F, 0x80])])

theorem wFloat_f0 : (getFpr wFloat .f0).val = 1 := by
  rw [show getFpr wFloat .f0 = ⟨false, true, 2 ^ 52, 1⟩ by decide +kernel]; norm_num [FloatValue.val]

theorem wFloat_f2 : (getFpr wFloat .f2).val = 16 ^ 63 / 2 := by
  rw [show getFpr wFloat .f2 = ⟨false, true, 2 ^ 55, 63⟩ by decide +kernel]; norm_num [FloatValue.val]

theorem wFloat_f4 : (getFpr wFloat .f4).val = 17 / 16 / 16 ^ 65 := by
  rw [show getFpr wFloat .f4 = ⟨false, true, 17 * 2 ^ 48, -64⟩ by decide +kernel]; norm_num [FloatValue.val]

theorem wFloat_f6 : (getFpr wFloat .f6).val = 1 / 16 ^ 65 := by
  rw [show getFpr wFloat .f6 = ⟨false, true, 2 ^ 52, -64⟩ by decide +kernel]; norm_num [FloatValue.val]

/-- Results in range, at its two ends, and a zero result: `0 + v`, `0 − 0`. -/
theorem witness_FloatAddSubtract :
    let s := withF [(.f2, 0x7F80000000000000), (.f4, 0x0010000000000000)] (start [] [])
    (fregOf 0 = some .f0 ∧ s.psw.pm.getLsbD 0 = false) ∧
    TruncatesTo 14 ((getFpr s .f0).val + (getFpr s .f2).val) ⟨false, true, 2 ^ 55, 63⟩ ∧
    TruncatesTo 6 ((shortened 6 (getFpr s .f0)).val + (shortened 6 (getFpr s .f4)).val) ⟨false, true, 2 ^ 52, -64⟩ ∧
    TruncatesTo 14 ((getFpr s .f0).val - (getFpr s .f0).val) .zero := by
  intro s
  have h0 : (getFpr s .f0).val = 0 := by rw [show getFpr s .f0 = .zero by decide +kernel]; rfl
  have hs : (shortened 6 (getFpr s .f0)).val = 0 := by
    rw [show shortened 6 (getFpr s .f0) = .zero by decide +kernel]; rfl
  have h2 : getFpr s .f2 = ⟨false, true, 2 ^ 55 * 16 ^ (14 - 14), 63⟩ := by decide +kernel
  have h4 : shortened 6 (getFpr s .f4) = ⟨false, true, 2 ^ 20 * 16 ^ (14 - 6), -64⟩ := by decide +kernel
  refine ⟨by decide +kernel, ?_, ?_, ?_⟩
  · rw [h0, zero_add, h2]; exact truncatesTo_val 14 true (2 ^ 55) 63 (by norm_num) (by norm_num) (by norm_num)
  · rw [hs, zero_add, h4]; exact truncatesTo_val 6 true (2 ^ 20) (-64) (by norm_num) (by norm_num) (by norm_num)
  · rw [sub_self, TruncatesTo, if_pos rfl]

/-- `1 × v`, `v / 1`, and half of `16^63 / 2`. -/
theorem witness_FloatMultiplyDivideHalve :
    fregOf 0 = some .f0 ∧ (getFpr wFloat .f0).wf = true ∧ (getFpr wFloat .f0).z = false ∧
    TruncatesTo 14 ((getFpr wFloat .f0).val * (getFpr wFloat .f2).val) ⟨false, true, 2 ^ 55, 63⟩ ∧
    TruncatesTo 14 ((getFpr wFloat .f2).val / (getFpr wFloat .f0).val) ⟨false, true, 2 ^ 55, 63⟩ ∧
    TruncatesTo 14 ((getFpr wFloat .f2).val / 2) ⟨false, true, 2 ^ 54, 63⟩ := by
  refine ⟨by decide, by decide +kernel, by decide +kernel, ?_, ?_, ?_⟩ <;> rw [wFloat_f2]
  · have h := truncatesTo_long (2 ^ 55) 63 (by norm_num) (by norm_num)
    rw [wFloat_f0]; convert h using 1; norm_num [FloatValue.val]
  · have h := truncatesTo_long (2 ^ 55) 63 (by norm_num) (by norm_num)
    rw [wFloat_f0]; convert h using 1; norm_num [FloatValue.val]
  · have h := truncatesTo_long (2 ^ 54) 63 (by norm_num) (by norm_num)
    convert h using 1; norm_num [FloatValue.val]

/-- A sum with exponent 64 and a difference with exponent −65, a product far above and one far below the range, a zero
divisor, a zero difference. -/
theorem witness_FloatExceptions :
    TruncatesTo 14 ((getFpr wFloat .f2).val + (getFpr wFloat .f2).val) ⟨false, true, 2 ^ 52, 64⟩ ∧
    TruncatesTo 14 ((getFpr wFloat .f4).val - (getFpr wFloat .f6).val) ⟨false, true, 2 ^ 52, -65⟩ ∧
    TruncatesTo 14 ((getFpr wFloat .f2).val * (getFpr wFloat .f2).val) ⟨false, true, 2 ^ 54, 126⟩ ∧
    TruncatesTo 14 ((getFpr wFloat .f6).val * (getFpr wFloat .f6).val) ⟨false, true, 2 ^ 52, -129⟩ ∧
    (getFpr wRun .f0).z = true ∧ (getFpr wFloat .f0).val - (getFpr wFloat .f0).val = 0 ∧
    (wFloat.psw.pm.getLsbD 0 = false ∧ wFloat.psw.pm.getLsbD 1 = false) ∧
    (setPm wFloat 3).psw.pm.getLsbD 0 = true ∧ (setPm wFloat 3).psw.pm.getLsbD 1 = true := by
  refine ⟨?_, ?_, ?_, ?_, by decide +kernel, sub_self _, by decide +kernel, by decide +kernel, by decide +kernel⟩
  · have h := truncatesTo_long (2 ^ 52) 64 (by norm_num) (by norm_num)
    rw [wFloat_f2]; convert h using 1; norm_num [FloatValue.val]
  · have h := truncatesTo_long (2 ^ 52) (-65) (by norm_num) (by norm_num)
    rw [wFloat_f4, wFloat_f6]; convert h using 1; norm_num [FloatValue.val]
  · have h := truncatesTo_long (2 ^ 54) 126 (by norm_num) (by norm_num)
    rw [wFloat_f2]; convert h using 1; norm_num [FloatValue.val]
  · have h := truncatesTo_long (2 ^ 52) (-129) (by norm_num) (by norm_num)
    rw [wFloat_f6]; convert h using 1; norm_num [FloatValue.val]

/-- A zero; a value rounded down at exponent 63; one rounded up to exponent 64. -/
theorem witness_LoadRounded :
    FloatValue.zero.z = true ∧
    (let b : FloatValue := ⟨false, true, 2 ^ 52, 63⟩
     b.wf = true ∧ b.z = false ∧
      TruncatesTo 6 (b.val + (if b.pos then 1 else -1) * (16 : ℚ) ^ (b.e - 6) / 2) ⟨false, true, 2 ^ 52, 63⟩) ∧
    (let b : FloatValue := ⟨false, true, 2 ^ 56 - 1, 63⟩
     b.wf = true ∧ b.z = false ∧
      TruncatesTo 6 (b.val + (if b.pos then 1 else -1) * (16 : ℚ) ^ (b.e - 6) / 2) ⟨false, true, 2 ^ 52, 64⟩) := by
  refine ⟨rfl, ⟨by decide +kernel, rfl, ?_⟩, ⟨by decide +kernel, rfl, ?_⟩⟩ <;>
    rw [TruncatesTo, if_neg (by norm_num [FloatValue.val])] <;>
    refine ⟨rfl, by norm_num [FloatValue.val], 16 ^ 5, by norm_num, by norm_num, by norm_num, ?_, ?_⟩ <;>
    norm_num [FloatValue.val, abs_of_pos]

theorem witness_DecimalFieldCode : 0 < 1 ∧ 0 < 16 ∧ ([0x1C] : List Byte) ≠ [] := by decide

/-- A sum of 3 digits that fits, the first that does not, and an SRP. -/
theorem witness_DecimalArithmetic :
    let s := start [] [(0x1000, [0x99, 0x8C]), (0x1010, [0x99, 0x9C]), (0x2000, [0x1C])]
    let u := decField (readField s 0x1000 2)
    let w := decField (readField s 0x1010 2)
    let v := decField (readField s 0x2000 1)
    (memoryCanonical s = true ∧ u.valid = true ∧ w.valid = true ∧ v.valid = true ∧ (9#4).toNat ≤ 9) ∧
      (u.val + v.val).natAbs < 10 ^ (2 * 2 - 1) ∧ 10 ^ (2 * 2 - 1) ≤ (w.val + v.val).natAbs ∧
      s.psw.pm.getLsbD 2 = false ∧ (setPm s 4).psw.pm.getLsbD 2 = true := by decide +kernel

/-- `99 × 9` with room for it, `999 / 9` with a quotient that fits, `999 / 0`, `9999 / 1` in 2 bytes for the
quotient. -/
theorem witness_DecimalProducts :
    let s := start [] [(0x1000, [0x00, 0x99, 0x9C]), (0x1010, [0x99, 0x99, 0x9C]), (0x2000, [0x9C, 0x0C, 0x1C])]
    let u := decField (readField s 0x1000 3)
    let w := decField (readField s 0x1010 3)
    let v := decField (readField s 0x2000 1)
    let z := decField (readField s 0x2001 1)
    let o := decField (readField s 0x2002 1)
    (memoryCanonical s = true ∧ u.valid = true ∧ w.valid = true ∧ v.valid = true ∧ z.valid = true ∧ o.valid = true) ∧
      (1 ≤ 8 ∧ 1 < 3) ∧ u.mag < 10 ^ (2 * (3 - 1) - 1) ∧ (v.mag ≠ 0 ∧ u.mag / v.mag < 10 ^ (2 * (3 - 1) - 1)) ∧
      z.mag = 0 ∧ 10 ^ (2 * (3 - 1) - 1) ≤ w.mag / o.mag := by decide +kernel

theorem witness_DecimalConversions :
    let s := start [] [(0x1000, [0, 0, 2, 0x14, 0x74, 0x83, 0x64, 0x8D]), (0x1010, [0, 0, 2, 0x14, 0x74, 0x83, 0x64, 0x8C])]
    let u := decField (readField s 0x1000 8)
    let v := decField (readField s 0x1010 8)
    (u.valid = true ∧ fitsWord u.val) ∧ v.valid = true ∧ ¬fitsWord v.val := by unfold fitsWord; decide +kernel

/-- A pattern byte of each kind, a digit selector, a significance starter, a field separator and message bytes, with no
invalid digit; and a source whose first digit is invalid. -/
theorem witness_EditResults :
    let s := start [] [(0x1000, [0x40, 0x20, 0x21, 0x22, 0x6B]), (0x2000, [0x12, 0xA2])]
    let p (a : Addr) : EditPoint := ⟨readByte s, a, true, false, false, none⟩
    memoryCanonical s = true ∧
      (takesDigit (readByte s 0x1001) ∧ takesDigit (readByte s 0x1002) ∧ readByte s 0x1003 = 0x22 ∧
        ¬takesDigit (readByte s 0x1000) ∧ ¬takesDigit (readByte s 0x1004)) ∧
      ¬BadEditDigit 0x1001 (p 0x2000) ∧ BadEditDigit 0x1001 (p 0x2001) := by
  unfold BadEditDigit takesDigit; decide +kernel

/-- A field with no valid sign, and one with an invalid digit; a multiplicand of 3 bytes without a byte of leading
zeros; a source of Edit with an invalid digit. -/
theorem witness_InvalidDecimalCodes :
    let s := start [] [(0x1000, [0x12, 0x39]), (0x1010, [0x40, 0x20]), (0x1020, [0x01, 0x00, 0x0C]), (0x1030, [0x9C]),
      (0x2000, [0xA2, 0x3C]), (0x2010, [0, 0, 0, 0, 0, 0, 0, 0])]
    (decField (readField s 0x1000 2)).valid = false ∧ (decField (readField s 0x2000 2)).valid = false ∧
      ((7#4).toNat < 8 ∧ (7#4).toNat < (8#4).toNat) ∧ 9 < (10#4).toNat ∧
      (decField (readField s 0x2010 8)).valid = false ∧
      ((decField (readField s 0x1020 3)).valid = true ∧ (decField (readField s 0x1030 1)).valid = true ∧
        10 ^ (2 * (2 - 0) - 1) ≤ (decField (readField s 0x1020 3)).mag) ∧
      (edit s (ea s 12 0x10) ((1#8).toNat + 1) (ea s 13 0)).bad = true := by decide +kernel

/-- The timer pending and enabled in a waiting CPU, with a new PSW at 88 that loads. -/
theorem witness_TimerInterruptDelivered :
    let s := { wWait with timerPending := true }
    memoryCanonical s = true ∧ s.result = .budget ∧ s.queue = [] ∧ (∀ d ∈ s.devices, d.async = false) ∧
      s.timerPending = true ∧ s.psw.sm.getLsbD 0 = true ∧
      (s.psw.w = true ∨ Config.insnsBeforeInterrupt ≤ s.sinceIrq) ∧ pswLoads s 88 :=
  ⟨by decide +kernel, by decide +kernel, by decide +kernel, by decide +kernel, by decide +kernel, by decide +kernel,
    .inl (by decide +kernel), pswLoads_of (by decide +kernel) (by decide +kernel)⟩

end Sys2Proof.Tests
end

/-! Wide accesses and register loads (spec/00_scope.md R8, R10): big-endian reads as concatenations of bytes,
the bytes of a stored word, the address of an operand as a number, and the bytes of a word under a mask. -/

namespace Sys2Proof.Machine

/-! ## Wide reads as concatenations (R8) -/

theorem offset_offset (a : Addr) (m n : Nat) : offset (offset a m) n = offset a (m + n) := by
  simp [offset, BitVec.add_assoc, BitVec.ofNat_add]

/-- Consecutive big-endian reads are one read of both lengths. -/
theorem readBE_add (s : State) (a : Addr) (m n : Nat) :
    readBE s a (m + n) = readBE s a m * 256 ^ n + readBE s (offset a m) n := by
  induction n with
  | zero => simp [readBE]
  | succ n ih =>
    rw [← Nat.add_assoc, readBE, ih, readBE, offset_offset]
    ring

/-- A number whose low `w` bits are `y` is the concatenation of its two parts. -/
theorem ofNat_mul_two_pow_add (v w x y : Nat) (hy : y < 2 ^ w) :
    BitVec.ofNat (v + w) (x * 2 ^ w + y) = BitVec.ofNat v x ++ BitVec.ofNat w y := by
  apply BitVec.eq_of_toNat_eq
  have low : (x * 2 ^ w + y) % 2 ^ w = y := by rw [Nat.mul_add_mod_self_right, Nat.mod_eq_of_lt hy]
  have high : (x * 2 ^ w + y) / 2 ^ w = x := by
    rw [Nat.mul_comm, Nat.mul_add_div (Nat.two_pow_pos w), Nat.div_eq_of_lt hy, Nat.add_zero]
  rw [BitVec.toNat_append, ← Nat.shiftLeft_add_eq_or_of_lt (BitVec.isLt _)]
  simp only [BitVec.toNat_ofNat, Nat.shiftLeft_eq, Nat.mod_eq_of_lt hy]
  rw [Nat.add_comm v w, Nat.pow_add, Nat.mod_mul, low, high]
  ring

/-- A wide read is the concatenation of the reads of its two parts. -/
theorem ofNat_readBE_add (s : State) (a : Addr) (m n : Nat) :
    BitVec.ofNat (8 * m + 8 * n) (readBE s a (m + n)) =
      BitVec.ofNat (8 * m) (readBE s a m) ++ BitVec.ofNat (8 * n) (readBE s (offset a m) n) := by
  have pow : 256 ^ n = 2 ^ (8 * n) := by rw [Nat.pow_mul]
  rw [readBE_add, pow]
  exact ofNat_mul_two_pow_add _ _ _ _ (pow ▸ readBE_lt s _ n)

theorem ofNat_readBE_one (s : State) (a : Addr) : BitVec.ofNat 8 (readBE s a 1) = readByte s a := by
  simp [readBE, offset_zero]

theorem read16_eq_append (s : State) (a : Addr) : read16 s a = readByte s a ++ readByte s (a + 1) := by
  rw [← ofNat_readBE_one s a, ← ofNat_readBE_one s (a + 1)]
  exact ofNat_readBE_add s a 1 1

theorem read32_eq_append (s : State) (a : Addr) :
    read32 s a = readByte s a ++ readByte s (a + 1) ++ readByte s (a + 2) ++ readByte s (a + 3) := by
  have three : BitVec.ofNat 24 (readBE s a 3) = read16 s a ++ readByte s (a + 2) := by
    rw [← ofNat_readBE_one s (a + 2)]
    exact ofNat_readBE_add s a 2 1
  rw [← read16_eq_append, ← three, ← ofNat_readBE_one s (a + 3)]
  exact ofNat_readBE_add s a 3 1

theorem read64_eq_append (s : State) (a : Addr) : read64 s a = read32 s a ++ read32 s (a + 4) :=
  ofNat_readBE_add s a 4 4

/-! ## The bytes of a stored word (R8) -/

/-- Byte `k` of a stored word, byte 0 the most significant. -/
theorem readByte_write32 (s : State) (a : Addr) (v : Word) (k : Nat) (h : memoryCanonical s = true) (hk : k < 4) :
    readByte (write32 s a v) (offset a k) = v.extractLsb' (8 * (3 - k)) 8 := by
  simp only [memoryCanonical, Bool.and_eq_true] at h
  have dist : (offset a k - a).toNat = k := by rw [offset_sub, Nat.mod_eq_of_lt (by omega)]
  rw [write32, readByte_writeBE 4 s a _ _ (Memory.wf_rising h.1) (by norm_num), dist, if_pos hk]
  rw [BitVec.extractLsb', Nat.shiftRight_eq_div_pow, Nat.pow_mul]

theorem sameOutside_write32 (s : State) (a : Addr) (v : Word) : SameOutside s (write32 s a v) a 4 :=
  fun x hx => readByte_writeBE_outside 4 s a x v.toNat hx

/-! ## The address of an operand (R10) -/

/-- What register `r` gives to an address: its low 24 bits, register 0 nothing. -/
theorem addrPart_toNat (s : State) (r : RegNum) :
    (addrPart s r).toNat = if r = 0 then 0 else (getReg s r).toNat % 2 ^ 24 := by
  unfold addrPart
  split
  · rfl
  · simp

theorem ea_toNat (s : State) (b : RegNum) (d : Disp) :
    (ea s b d).toNat = ((addrPart s b).toNat + d.toNat) % 2 ^ 24 := by
  simp [ea]

theorem eax_toNat (s : State) (x b : RegNum) (d : Disp) :
    (eax s x b d).toNat = ((addrPart s x).toNat + (addrPart s b).toNat + d.toNat) % 2 ^ 24 := by
  simp [eax]

/-! ## The bytes of a word under a mask (R109 e) -/

theorem mem_maskPositions (m : RegNum) (k : Nat) : k ∈ maskPositions m ↔ k < 4 ∧ m.getLsbD k = true := by
  have listed : k ∈ [3, 2, 1, 0] ↔ k < 4 := by
    simp only [List.mem_cons, List.not_mem_nil, or_false]
    omega
  rw [maskPositions, List.mem_filter, listed]

theorem maskPositions_nodup (m : RegNum) : (maskPositions m).Nodup :=
  List.Nodup.filter _ (by decide)

/-- A position is selected by the mask or by its complement, never by both. -/
theorem not_mem_maskPositions_of_compl (m : RegNum) (k : Nat) (h : k ∈ maskPositions (~~~m)) :
    k ∉ maskPositions m := by
  simp only [mem_maskPositions, BitVec.getLsbD_not, Bool.and_eq_true, Bool.not_eq_true'] at h ⊢
  obtain ⟨_, _, unset⟩ := h
  simp [unset]

theorem map_filter_cons {α β : Type} (p : α → Bool) (f : α → β) (k : α) (ks : List α) :
    ((k :: ks).filter p).map f = (if p k then [f k] else []) ++ (ks.filter p).map f := by
  by_cases h : p k = true
  · simp [List.filter_cons_of_pos h, h]
  · simp [List.filter_cons_of_neg h, h]

/-- The claims' selected bytes are the model's bytes at the mask's positions. -/
theorem selectedBytes_eq_map (m : RegNum) (v : Word) : selectedBytes m v = (maskPositions m).map (byteOf v) := by
  simp only [maskPositions, map_filter_cons, List.filter_nil, List.map_nil, List.append_nil, ← List.append_assoc]
  rfl

theorem selectedBytes_length (m : RegNum) (v : Word) : (selectedBytes m v).length = (maskPositions m).length := by
  rw [selectedBytes_eq_map, List.length_map]

theorem getLsbD_byteOf (v : Word) (k i : Nat) (hi : i < 8) : (byteOf v k).getLsbD i = v.getLsbD (8 * k + i) := by
  simp [byteOf, hi]

/-- Bit `n` of a word with byte `k` replaced. -/
theorem getLsbD_withByte (v : Word) (k : Nat) (b : Byte) (n : Nat) (hn : n < 32) :
    (withByte v k b).getLsbD n = if 8 * k ≤ n ∧ n < 8 * k + 8 then b.getLsbD (n - 8 * k) else v.getLsbD n := by
  have ones : (0xFF#32).getLsbD (n - 8 * k) = decide (n - 8 * k < 8) := by
    rw [show 0xFF#32 = (BitVec.allOnes 8).setWidth 32 from rfl, BitVec.getLsbD_setWidth, BitVec.getLsbD_allOnes]
    simp only [Bool.and_eq_right_iff_imp, decide_eq_true_eq]
    omega
  simp only [withByte, BitVec.getLsbD_or, BitVec.getLsbD_and, BitVec.getLsbD_not, BitVec.getLsbD_shiftLeft,
    BitVec.getLsbD_setWidth, ones, hn]
  by_cases low : n < 8 * k
  · rw [if_neg (by omega)]
    simp [low]
  · by_cases high : n - 8 * k < 8
    · rw [if_pos (by omega)]
      simp [low, high, show n - 8 * k < 32 by omega]
    · rw [if_neg (by omega)]
      simp [low, high, BitVec.getLsbD_of_ge b _ (Nat.le_of_not_lt high)]

/-- A replaced byte is read back at its position and nowhere else. -/
theorem byteOf_withByte (v : Word) (b : Byte) {j k : Nat} (hj : j < 4) :
    byteOf (withByte v k b) j = if j = k then b else byteOf v j := by
  apply BitVec.eq_of_getLsbD_eq
  intro i hi
  rw [getLsbD_byteOf _ _ _ hi, getLsbD_withByte _ _ _ _ (by omega)]
  by_cases h : j = k
  · rw [if_pos (by omega), if_pos h, h, Nat.add_sub_cancel_left]
  · rw [if_neg (by omega), if_neg h, getLsbD_byteOf _ _ _ hi]

/-- Bytes put at positions leave every other position alone. -/
theorem byteOf_withBytes_of_not_mem (ks : List Nat) (bs : List Byte) (v : Word) {j : Nat} (hj : j < 4)
    (h : j ∉ ks) : byteOf (withBytes v ks bs) j = byteOf v j := by
  induction ks generalizing v bs with
  | nil => rfl
  | cons k ks ih =>
    obtain ⟨hjk, hj'⟩ := not_or.1 (mt List.mem_cons.2 h)
    cases bs with
    | nil => rfl
    | cons b bs => rw [withBytes, ih bs _ hj', byteOf_withByte v b hj, if_neg hjk]

/-- Bytes put at distinct positions are read back there, in order. -/
theorem map_byteOf_withBytes (ks : List Nat) (bs : List Byte) (v : Word) (hks : ∀ k ∈ ks, k < 4) (hn : ks.Nodup)
    (hl : bs.length = ks.length) : ks.map (byteOf (withBytes v ks bs)) = bs := by
  induction ks generalizing v bs with
  | nil => exact (List.length_eq_zero_iff.1 hl).symm
  | cons k ks ih =>
    cases bs with
    | nil => simp at hl
    | cons b bs =>
      obtain ⟨hk, hks⟩ := List.forall_mem_cons.1 hks
      obtain ⟨hkn, hn⟩ := List.nodup_cons.1 hn
      rw [List.map_cons, withBytes, ih bs _ hks hn (Nat.succ.inj hl), byteOf_withBytes_of_not_mem ks bs _ hk hkn,
        byteOf_withByte v b hk, if_pos rfl]

/-- The bytes put under a mask are the ones the mask then selects. -/
theorem selectedBytes_withBytes (m : RegNum) (v : Word) (bs : List Byte) (hl : bs.length = (maskPositions m).length) :
    selectedBytes m (withBytes v (maskPositions m) bs) = bs := by
  rw [selectedBytes_eq_map]
  exact map_byteOf_withBytes _ bs v (fun k hk => ((mem_maskPositions m k).1 hk).1) (maskPositions_nodup m) hl

/-- The bytes a mask does not select stay as bytes are put under it. -/
theorem selectedBytes_compl_withBytes (m : RegNum) (v : Word) (bs : List Byte) :
    selectedBytes (~~~m) (withBytes v (maskPositions m) bs) = selectedBytes (~~~m) v := by
  rw [selectedBytes_eq_map, selectedBytes_eq_map]
  refine List.map_congr_left fun j hj => ?_
  exact byteOf_withBytes_of_not_mem _ bs v ((mem_maskPositions _ j).1 hj).1 (not_mem_maskPositions_of_compl m j hj)

/-! ## The condition code of inserted bytes (R301) -/

theorem bytesValue_eq_zero_iff (bs : List Byte) : bytesValue bs = 0 ↔ ∀ b ∈ bs, b = 0 := by
  have go : ∀ n : Nat, bs.foldl (fun n b => n * 256 + b.toNat) n = 0 ↔ n = 0 ∧ ∀ b ∈ bs, b = 0 := by
    induction bs with
    | nil => simp
    | cons b bs ih =>
      intro n
      have head : n * 256 + b.toNat = 0 ↔ n = 0 ∧ b = 0 := by
        rw [show b = 0 ↔ b.toNat = 0 from BitVec.toNat_eq]
        omega
      rw [List.foldl_cons, ih, List.forall_mem_cons, head, and_assoc]
  simpa [bytesValue] using go 0

theorem ccInserted_eq (bs : List Byte) :
    ccInserted bs = if bytesValue bs = 0 then 0 else if (bs.headD 0).msb then 1 else 2 := by
  simp only [ccInserted, bytesValue_eq_zero_iff, List.all_eq_true, beq_iff_eq, BitVec.msb_eq_getLsbD_last]

/-! ## The obligations -/

/-- Settles O22: a wide read splits at any place into two (`ofNat_readBE_add`), and a stored word is read back by its
distance from the address. -/
theorem wideAccessIsBigEndian : Obligations.WideAccessIsBigEndian := by
  intro s a v
  refine ⟨read16_eq_append s a, read32_eq_append s a, read64_eq_append s a, fun h => ⟨?_, ?_, ?_, ?_, ?_⟩⟩
  · simpa [offset_zero] using readByte_write32 s a v 0 h (by norm_num)
  · exact readByte_write32 s a v 1 h (by norm_num)
  · exact readByte_write32 s a v 2 h (by norm_num)
  · exact readByte_write32 s a v 3 h (by norm_num)
  · exact sameOutside_write32 s a v

/-- Settles O23: each load is a register write; ICM's register is the old one with the bytes put under the mask. -/
theorem registerLoads : Obligations.RegisterLoads := by
  intro s r1 r2 x2 b2 m3 d2 a old bs part
  have hx : (eax s x2 b2 d2).toNat = (part x2 + part b2 + d2.toNat) % 2 ^ 24 := by
    rw [eax_toNat, addrPart_toNat, addrPart_toNat]
  refine ⟨by rw [ea_toNat, addrPart_toNat], hx, setsReg_of rfl, setsReg_of ?_, setsReg_of ?_, setsReg_of ?_,
    setsReg_of rfl, withBytes old (maskPositions m3) bs, ?_, ?_, setsRegCc_of ?_⟩
  · rw [← read32_eq_append]; rfl
  · rw [← read16_eq_append]; rfl
  · rw [← hx, BitVec.ofNat_toNat]; rfl
  · exact selectedBytes_withBytes m3 old bs (by rw [readField_length, selectedBytes_length])
  · exact selectedBytes_compl_withBytes m3 old bs
  · rw [← ccInserted_eq]
    simp only [bs, selectedBytes_length]
    rfl

end Sys2Proof.Machine

/-! Canonical states (spec/10_state.md R36 to R38, R43): every step keeps memory and keys in canonical form, the
queue free of repetitions and the EX-target flag as it was. The relation `KeepsCanonical` is proved once for each
operation of the model, then for each instruction, the boundary check and the loop. -/

namespace Sys2Proof.Machine

/-! ## The relation -/

/-- The second state is as canonical as the first: what a piece of the model that turns one into the other keeps. -/
structure KeepsCanonical (s t : State) : Prop where
  mem : Memory.wf memorySize s.mem = true → Memory.wf memorySize t.mem = true
  keys : Memory.wf keyCount s.keys = true → Memory.wf keyCount t.keys = true
  queue : s.queue.Nodup → t.queue.Nodup
  exTarget : t.exTarget = s.exTarget

theorem KeepsCanonical.refl (s : State) : KeepsCanonical s s := ⟨id, id, id, rfl⟩

theorem KeepsCanonical.trans {s t u : State} (h : KeepsCanonical s t) (k : KeepsCanonical t u) :
    KeepsCanonical s u :=
  ⟨k.mem ∘ h.mem, k.keys ∘ h.keys, k.queue ∘ h.queue, k.exTarget.trans h.exTarget⟩

/-- Transitivity from the end: the state between is known from the second part. -/
theorem KeepsCanonical.after {s t u : State} (k : KeepsCanonical t u) (h : KeepsCanonical s t) :
    KeepsCanonical s u := h.trans k

theorem KeepsCanonical.memoryCanonical {s t : State} (h : KeepsCanonical s t) (hs : memoryCanonical s = true) :
    memoryCanonical t = true := by
  simp only [Machine.memoryCanonical, Bool.and_eq_true] at hs ⊢
  exact ⟨h.mem hs.1, h.keys hs.2⟩

theorem KeepsCanonical.controlCanonical {s t : State} (h : KeepsCanonical s t) (hs : controlCanonical s = true) :
    controlCanonical t = true := by
  simp only [Machine.controlCanonical, Bool.and_eq_true, decide_eq_true_eq] at hs ⊢
  exact ⟨h.queue hs.1, by rw [h.exTarget]; exact hs.2⟩

/-- A change of neither memory, keys, queue nor flag. -/
theorem KeepsCanonical.of_eq {s t : State} (hm : t.mem = s.mem) (hk : t.keys = s.keys) (hq : t.queue = s.queue)
    (he : t.exTarget = s.exTarget) : KeepsCanonical s t :=
  ⟨fun h => by rwa [hm], fun h => by rwa [hk], fun h => by rwa [hq], he⟩

/-- A change of memory alone that keeps its canonical form. -/
theorem KeepsCanonical.of_onlyMem {s t : State} (h : OnlyMem s t)
    (hm : Memory.wf memorySize s.mem = true → Memory.wf memorySize t.mem = true) : KeepsCanonical s t := by
  rw [h]
  exact ⟨hm, id, id, rfl⟩

theorem KeepsCanonical.ite {s t u : State} {c : Prop} [Decidable c] (ht : KeepsCanonical s t)
    (hu : KeepsCanonical s u) : KeepsCanonical s (if c then t else u) := by
  split
  · exact ht
  · exact hu

/-- The state of a result that a condition chooses. -/
theorem KeepsCanonical.iteState {s : State} {c : Prop} [Decidable c] {r r' : Result}
    (h : KeepsCanonical s r.state) (h' : KeepsCanonical s r'.state) :
    KeepsCanonical s (if c then r else r').state := by
  split
  · exact h
  · exact h'

/-! ## The operations of the state -/

theorem keepsCanonical_writeByte (s : State) (a : Addr) (v : Byte) : KeepsCanonical s (writeByte s a v) :=
  .of_onlyMem (onlyMem_writeByte s a v) (wf_writeByte s a v)

theorem keepsCanonical_writeField (s : State) (a : Addr) (bs : List Byte) : KeepsCanonical s (writeField s a bs) :=
  .of_onlyMem (onlyMem_writeField bs s a) (wf_writeField bs s a)

theorem keepsCanonical_writeBE (s : State) (a : Addr) (n v : Nat) : KeepsCanonical s (writeBE s a n v) :=
  .of_onlyMem (onlyMem_writeBE n s a v) (wf_writeBE n s a v)

theorem keepsCanonical_writeKey (s : State) (p : BitVec 13) (v : Byte) : KeepsCanonical s (writeKey s p v) :=
  ⟨id, wf_writeKey s p v, id, rfl⟩

theorem keepsCanonical_setPc (s : State) (a : Addr) : KeepsCanonical s (setPc s a) := .of_eq rfl rfl rfl rfl

theorem keepsCanonical_setReg (s : State) (r : RegNum) (v : Word) : KeepsCanonical s (setReg s r v) :=
  .of_eq rfl rfl rfl rfl

theorem keepsCanonical_setLongRegs (s : State) (r1 r2 : RegNum) (d l1 a l2 : Addr) (pad : Byte) :
    KeepsCanonical s (setLongRegs s r1 r2 d l1 a l2 pad) := .of_eq rfl rfl rfl rfl

theorem keepsCanonical_loadRegs (n : Nat) (r : RegNum) (a : Addr) (s : State) :
    KeepsCanonical s (loadRegs n r a s) := by
  rw [loadRegs_other]
  exact .of_eq rfl rfl rfl rfl

theorem keepsCanonical_loadPsw (s : State) (a : Addr) : KeepsCanonical s (loadPsw s a) := by
  rw [loadPsw_frame]
  exact .of_eq rfl rfl rfl rfl

theorem keepsCanonical_initiate (s : State) (old new : Addr) (code : BitVec 16) :
    KeepsCanonical s (initiate s old new code) := by
  rw [initiate_frame]
  exact ⟨wf_initiate s old new code, id, id, rfl⟩

theorem keepsCanonical_programInterrupt (s : State) (e : ProgramException) :
    KeepsCanonical s (programInterrupt s e) := keepsCanonical_initiate s 40 104 e.code

theorem keepsCanonical_handOffBytes (s : State) (bs : List Byte) : KeepsCanonical s (handOffBytes s bs) :=
  .of_eq rfl rfl rfl rfl

theorem keepsCanonical_postProcess (r : Result) : KeepsCanonical r.state (postProcess r) := by
  obtain ⟨hk, -, -, hq, he, -⟩ := postProcess_other r
  exact ⟨wf_postProcess r, fun h => by rwa [hk], fun h => by rwa [hq], he⟩

/-! ## The shared results of the instructions -/

section Results

variable {s : State}

theorem keepsCanonical_whenEven {r : RegNum} {k : Result} (h : KeepsCanonical s k.state) :
    KeepsCanonical s (whenEven r s k).state := .iteState (.refl s) h

theorem keepsCanonical_whenAligned {k : Nat} {a : Addr} {r : Result} (h : KeepsCanonical s r.state) :
    KeepsCanonical s (whenAligned k a s r).state := .iteState h (.refl s)

theorem keepsCanonical_whenShorter {L1 L2 : Nat} {k : Result} (h : KeepsCanonical s k.state) :
    KeepsCanonical s (whenShorter L1 L2 s k).state := .iteState (.refl s) h

theorem keepsCanonical_withFpr {r : RegNum} {k : FReg → Result} (h : ∀ f, KeepsCanonical s (k f).state) :
    KeepsCanonical s (withFpr r s k).state := by
  cases hf : fregOf r with
  | none => rw [withFpr_of_none r s k hf]; exact .refl s
  | some f => rw [withFpr_of_some r s k f hf]; exact h f

theorem keepsCanonical_applyFp (f : FReg) (p : FpResult) : KeepsCanonical s (applyFp s f p).state := by
  rcases applyFp_state s f p with h | ⟨v, -, h⟩
  · rw [h]; exact .refl s
  · rw [h]; exact .of_eq (setFpr_mem ..) (setFpr_keys ..) (setFpr_queue ..) (setFpr_exTarget ..)

theorem keepsCanonical_decimalResult (a : Addr) (L : Nat) (r : Int) :
    KeepsCanonical s (decimalResult s a L r).state := keepsCanonical_writeField s a _

theorem keepsCanonical_invalidField (op : Config.DecimalOp) (f1 f2 : List Byte) (imm : Nat) (a : Addr) (L : Nat) :
    KeepsCanonical s (invalidField s op f1 f2 imm a L).state := keepsCanonical_writeField s a _

theorem keepsCanonical_onFields {op : Config.DecimalOp} {a1 a2 : Addr} {L1 L2 : Nat} {k : DecValue → DecValue → Result}
    (h : ∀ u v, KeepsCanonical s (k u v).state) : KeepsCanonical s (onFields s op a1 L1 a2 L2 k).state :=
  .iteState (h _ _) (keepsCanonical_invalidField ..)

theorem keepsCanonical_divideResult (r : RegNum) (d : Word) : KeepsCanonical s (divideResult s r d).state :=
  keepsCanonical_whenEven <| .iteState (.refl s) <| .iteState (.refl s) (.of_eq rfl rfl rfl rfl)

theorem keepsCanonical_storeClock (us : Nat) (a : Addr) (n : Nat) :
    KeepsCanonical s (storeClock us a { s with clockReads := n }).state :=
  KeepsCanonical.after (keepsCanonical_writeBE _ a 8 _) (.of_eq rfl rfl rfl rfl)

theorem keepsCanonical_combineBytes (f : Byte → Byte → Byte) (n : Nat) (a b : Addr) :
    KeepsCanonical s (combineBytes f n a b s) :=
  .of_onlyMem (onlyMem_combineBytes f n a b s) (wf_combineBytes f n a b s)

theorem keepsCanonical_moveLong (pad : Byte) (n k : Nat) (d a : Addr) : KeepsCanonical s (moveLong pad n k d a s) :=
  .of_onlyMem (onlyMem_moveLong pad n k d a s) (wf_moveLong pad n k d a s)

theorem keepsCanonical_edit (a1 : Addr) (L : Nat) (a2 : Addr) : KeepsCanonical s (edit s a1 L a2).state :=
  .of_onlyMem (onlyMem_editLoop _ L true a1 _) (wf_editLoop _ L true a1 ⟨s, a2, true, false, false, none, false⟩)

end Results

/-! ## Outcomes -/

/-- Whatever next state the outcome is, it is as canonical as `s`. -/
structure OutKeepsCanonical (s : State) (o : Out) : Prop where
  keeps : ∀ t, o = .next t → KeepsCanonical s t

theorem outKeepsCanonical_next {s t : State} (h : KeepsCanonical s t) : OutKeepsCanonical s (.next t) :=
  ⟨by rintro _ ⟨⟩; exact h⟩

theorem outKeepsCanonical_refused (s : State) (r : Refusal) : OutKeepsCanonical s (.refused r) :=
  ⟨by rintro _ ⟨⟩⟩

theorem outKeepsCanonical_ite {s : State} {c : Prop} [Decidable c] {o o' : Out} (h : OutKeepsCanonical s o)
    (h' : OutKeepsCanonical s o') : OutKeepsCanonical s (if c then o else o') := by
  split
  · exact h
  · exact h'

theorem outKeepsCanonical_of_keeps {s t : State} {o : Out} (h : KeepsCanonical s t) (k : OutKeepsCanonical t o) :
    OutKeepsCanonical s o := ⟨fun u hu => h.trans (k.keeps u hu)⟩

theorem outKeepsCanonical_finish {s : State} {r : Result} (h : KeepsCanonical s r.state) :
    OutKeepsCanonical s (finish r) := outKeepsCanonical_next (h.trans (keepsCanonical_postProcess r))

theorem outKeepsCanonical_handOff (s : State) (bs : List Byte) : OutKeepsCanonical s (.next (handOffBytes s bs)) :=
  outKeepsCanonical_next (keepsCanonical_handOffBytes s bs)

/-! ## The instructions -/

theorem outKeepsCanonical_execTrt (l : Byte) (b1 : RegNum) (d1 : Disp) (b2 : RegNum) (d2 : Disp) (s : State) :
    OutKeepsCanonical s (execTrt l b1 d1 b2 d2 s) := by
  refine outKeepsCanonical_finish ?_
  split
  · exact .refl s
  · exact .of_eq rfl rfl rfl rfl

theorem outKeepsCanonical_execEdmk (l : Byte) (b1 : RegNum) (d1 : Disp) (b2 : RegNum) (d2 : Disp) (s : State) :
    OutKeepsCanonical s (execEdmk l b1 d1 b2 d2 s) := by
  refine outKeepsCanonical_finish ?_
  have edited := keepsCanonical_edit (s := s) (ea s b1 d1) (byteCount l) (ea s b2 d2)
  refine .iteState ((keepsCanonical_setReg s 1 _).trans (keepsCanonical_invalidField ..)) ?_
  split
  · exact edited.trans (keepsCanonical_setReg ..)
  · exact edited

/-- The instructions by the shape of their rules: registers, condition code or `pc` alone (and EX, which traps as a
target); a branch; a store; a new PSW; a floating-point primitive; an even-odd pair; a storage loop; a decimal field; a
hand-off. -/
theorem outKeepsCanonical_runTarget (i : Instr) (s : State) : OutKeepsCanonical s (runTarget i s) := by
  cases i with
  | spm | isk | lpr | lnr | ltr | lcr | nr | clr | or | xr | lr | cr | ar | sr | alr | slr | la | ic | ex | bal | lh
  | ch | ah | sh | mh | bas | n | cl | o | x | l | c | a | s | al | sl | ssm | srl | sll | sra | sla | tm | cli | clc
  | clm | icm => exact outKeepsCanonical_finish (.of_eq rfl rfl rfl rfl)
  | balr | basr | bct | bctr | bxh | bxle =>
    exact outKeepsCanonical_finish <| .ite (.of_eq rfl rfl rfl rfl) (keepsCanonical_setReg ..)
  | bc | bcr => exact outKeepsCanonical_finish <| .ite (keepsCanonical_setPc ..) (.refl s)
  | ssk => exact outKeepsCanonical_finish (keepsCanonical_writeKey ..)
  | stc | mvi | ts | ni | oi | xi => exact outKeepsCanonical_finish (keepsCanonical_writeByte ..)
  | stnsm | stosm =>
    exact outKeepsCanonical_finish <| (keepsCanonical_writeByte ..).trans (.of_eq rfl rfl rfl rfl)
  | stcm | cvd => exact outKeepsCanonical_finish (keepsCanonical_writeField ..)
  | st | sth => exact outKeepsCanonical_finish (keepsCanonical_writeBE ..)
  | stck => exact outKeepsCanonical_finish (keepsCanonical_storeClock ..)
  | lm => exact outKeepsCanonical_finish (keepsCanonical_loadRegs ..)
  | stm => exact outKeepsCanonical_finish <| .of_onlyMem (onlyMem_storeRegs ..) (wf_storeRegs _ _ _ _)
  | svc => exact outKeepsCanonical_finish (keepsCanonical_initiate ..)
  | lpsw => exact outKeepsCanonical_finish <| .iteState (keepsCanonical_loadPsw ..) (.refl s)
  | lpdr | lndr | ltdr | lcdr | hdr | ldr | cdr | adr | sdr | mdr | ddr | awr | swr | lper | lner | lter | lcer | her
  | lrer | ler | cer | aer | ser | mer | der | aur | sur =>
    exact outKeepsCanonical_finish <| keepsCanonical_withFpr fun x => keepsCanonical_withFpr fun _ =>
      keepsCanonical_applyFp x _
  | ld | cd | ad | sd | md | dd | aw | sw | le | ce | ae | se | me | de | au | su =>
    exact outKeepsCanonical_finish <| keepsCanonical_withFpr fun x => keepsCanonical_applyFp x _
  | std | ste =>
    exact outKeepsCanonical_finish <| keepsCanonical_withFpr fun _ => keepsCanonical_writeBE ..
  | mr | m | srdl | sldl | srda | slda =>
    exact outKeepsCanonical_finish <| keepsCanonical_whenEven (.of_eq rfl rfl rfl rfl)
  | dr | d => exact outKeepsCanonical_finish (keepsCanonical_divideResult ..)
  | clcl =>
    exact outKeepsCanonical_finish <| keepsCanonical_whenEven <| keepsCanonical_whenEven <|
      keepsCanonical_setLongRegs ..
  | mvcl =>
    exact outKeepsCanonical_finish <| keepsCanonical_whenEven <| keepsCanonical_whenEven <|
      .iteState (.refl s) ((keepsCanonical_moveLong ..).trans (keepsCanonical_setLongRegs ..))
  | cs =>
    exact outKeepsCanonical_finish <| keepsCanonical_whenAligned <|
      .iteState (keepsCanonical_writeBE ..) (keepsCanonical_setReg ..)
  | cds =>
    exact outKeepsCanonical_finish <| keepsCanonical_whenEven <| keepsCanonical_whenEven <|
      keepsCanonical_whenAligned <| .iteState (keepsCanonical_writeBE ..) (.of_eq rfl rfl rfl rfl)
  | mvn | mvc | mvz | nc | oc | xc => exact outKeepsCanonical_finish (keepsCanonical_combineBytes ..)
  | tr => exact outKeepsCanonical_finish <| .of_onlyMem (onlyMem_translate ..) (wf_translate _ _ _ _)
  | trt l b1 d1 b2 d2 => exact outKeepsCanonical_execTrt l b1 d1 b2 d2 s
  | ed => exact outKeepsCanonical_finish <| .iteState (keepsCanonical_invalidField ..) (keepsCanonical_edit ..)
  | edmk l b1 d1 b2 d2 => exact outKeepsCanonical_execEdmk l b1 d1 b2 d2 s
  | srp | zap =>
    exact outKeepsCanonical_finish <| .iteState (keepsCanonical_decimalResult ..) (keepsCanonical_invalidField ..)
  | mvo => exact outKeepsCanonical_finish <| .of_onlyMem (onlyMem_moveOffset ..) (wf_moveOffset _ _ _ _ _ _)
  | pack =>
    exact outKeepsCanonical_finish <| (keepsCanonical_writeByte ..).trans <|
      .of_onlyMem (onlyMem_packBytes ..) (wf_packBytes _ _ _ _ _)
  | unpk =>
    exact outKeepsCanonical_finish <| (keepsCanonical_writeByte ..).trans <|
      .of_onlyMem (onlyMem_unpackBytes ..) (wf_unpackBytes _ _ _ _ _)
  | cp | cvb => exact outKeepsCanonical_finish <| .iteState (.of_eq rfl rfl rfl rfl) (.of_eq rfl rfl rfl rfl)
  | ap | sp =>
    exact outKeepsCanonical_finish <| keepsCanonical_onFields fun _ _ => keepsCanonical_decimalResult ..
  | mp =>
    exact outKeepsCanonical_finish <| keepsCanonical_whenShorter <| keepsCanonical_onFields fun _ _ =>
      .iteState (keepsCanonical_invalidField ..) (keepsCanonical_writeField ..)
  | dp =>
    exact outKeepsCanonical_finish <| keepsCanonical_whenShorter <| keepsCanonical_onFields fun _ _ =>
      .iteState (.refl s) <| .iteState (.refl s) (keepsCanonical_writeField ..)
  | diag | sio | siof | tio | hio | hdv | tch | sckc | stckc | ptlb | spx | stpx | stap | stctl | lctl =>
    exact outKeepsCanonical_handOff s _

/-- A target runs with the EX-target flag on and leaves it off (R43, R152). -/
theorem outKeepsCanonical_executeTarget (bs : List Byte) {s : State} (h : s.exTarget = false) :
    OutKeepsCanonical s (executeTarget bs s) := by
  unfold executeTarget
  split
  · next i _ _ =>
    obtain ⟨run⟩ := outKeepsCanonical_runTarget i { s with exTarget := true }
    cases hu : runTarget i { s with exTarget := true } with
    | next u =>
      obtain ⟨hm, hk, hq, -⟩ := run u hu
      exact outKeepsCanonical_next (t := { u with exTarget := false }) ⟨hm, hk, hq, h.symm⟩
    | fault r => cases r
    | refused r => exact outKeepsCanonical_refused s r
  · exact outKeepsCanonical_handOff s bs

theorem outKeepsCanonical_execEx (r1 x2 b2 : RegNum) (d2 : Disp) (s : State) :
    OutKeepsCanonical s (execEx r1 x2 b2 d2 s) := by
  by_cases h : s.exTarget = true
  · rw [execEx, if_pos h]
    exact outKeepsCanonical_finish (.of_eq rfl rfl rfl rfl)
  · rw [execEx, if_neg h]
    refine outKeepsCanonical_ite (outKeepsCanonical_finish (.of_eq rfl rfl rfl rfl)) <|
      outKeepsCanonical_ite (outKeepsCanonical_finish (.of_eq rfl rfl rfl rfl)) ?_
    exact outKeepsCanonical_executeTarget _ (by simpa using h)

theorem outKeepsCanonical_exec (i : Instr) (s : State) : OutKeepsCanonical s (exec i s) := by
  by_cases h : ∀ r1 x2 b2 d2, i ≠ .ex r1 x2 b2 d2
  · rw [← runTarget_eq_exec i s h]
    exact outKeepsCanonical_runTarget i s
  · push Not at h
    obtain ⟨r1, x2, b2, d2, rfl⟩ := h
    exact outKeepsCanonical_execEx r1 x2 b2 d2 s

/-! ## The boundary check and the loop -/

theorem keepsCanonical_enqueueAsync (s : State) : KeepsCanonical s (enqueueAsync s) := by
  have nodup := enqueueAsync_nodup s
  rw [enqueueAsync_frame] at nodup ⊢
  exact ⟨id, id, nodup, rfl⟩

theorem keepsCanonical_initiateDevice (s : State) (n : Nat) (async : Bool) :
    KeepsCanonical s (initiateDevice s n async) := by
  unfold initiateDevice
  split
  · exact .refl s
  · exact KeepsCanonical.after (keepsCanonical_initiate ..) <|
      KeepsCanonical.after (keepsCanonical_writeBE _ _ 8 _) (.of_eq rfl rfl rfl rfl)

theorem keepsCanonical_initiateSource (s : State) (src : SourceId) : KeepsCanonical s (initiateSource s src) := by
  cases src with
  | timer => exact KeepsCanonical.after (keepsCanonical_initiate ..) (.of_eq rfl rfl rfl rfl)
  | device n => exact keepsCanonical_initiateDevice s n _

theorem keepsCanonical_deliver (s : State) (src : SourceId) : KeepsCanonical s (deliver s src) :=
  (keepsCanonical_initiateSource s src).trans <| .ite (.of_eq rfl rfl rfl rfl) (.refl _)

theorem keepsCanonical_deliverFirst (s : State) : KeepsCanonical s (deliverFirst s) := by
  rcases deliverFirst_cases s with h | ⟨src, -, -, h⟩
  · rw [h]; exact .refl s
  · rw [h]; exact keepsCanonical_deliver s src

theorem keepsCanonical_dropIdle (s : State) : KeepsCanonical s (dropIdle s) := ⟨id, id, fun h => h.filter _, rfl⟩

theorem keepsCanonical_boundaryCheck (s : State) : KeepsCanonical s (boundaryCheck s) :=
  (keepsCanonical_enqueueAsync s).trans <| (keepsCanonical_deliverFirst _).trans <|
    .ite (keepsCanonical_dropIdle _) (.refl _)

theorem outKeepsCanonical_instrStep (s : State) : OutKeepsCanonical s (instrStep s) := by
  have advanced (n : Nat) : KeepsCanonical s (advance s n) := .of_eq rfl rfl rfl rfl
  unfold instrStep
  refine outKeepsCanonical_ite (outKeepsCanonical_next (keepsCanonical_programInterrupt s _)) ?_
  dsimp only
  split
  · exact outKeepsCanonical_of_keeps (advanced _) (outKeepsCanonical_exec _ _)
  · exact outKeepsCanonical_of_keeps (advanced _) (outKeepsCanonical_handOff _ _)

theorem outKeepsCanonical_countStep {s : State} {o : Out} (h : OutKeepsCanonical s o) :
    OutKeepsCanonical s (countStep o) := by
  cases o with
  | next t => exact outKeepsCanonical_next <| (h.keeps t rfl).trans (.of_eq rfl rfl rfl rfl)
  | fault r => cases r
  | refused r => exact outKeepsCanonical_refused s r

/-- Every step keeps a state canonical. -/
theorem outKeepsCanonical_step (s : State) : OutKeepsCanonical s (step s) := by
  have started : KeepsCanonical s (setResult s .budget) := .of_eq rfl rfl rfl rfl
  have checked := started.trans (keepsCanonical_boundaryCheck _)
  rw [step]
  rcases iteration_cases s with ⟨-, h⟩ | ⟨-, -, h⟩ | ⟨-, -, -, h⟩ | ⟨-, -, -, h⟩ <;> rw [h]
  · exact outKeepsCanonical_next started
  · exact outKeepsCanonical_next checked
  · exact outKeepsCanonical_next (checked.trans (.of_eq rfl rfl rfl rfl))
  · exact outKeepsCanonical_of_keeps checked (outKeepsCanonical_countStep (outKeepsCanonical_instrStep _))

/-- Settles O4: memory and keys are two of the four things `KeepsCanonical` speaks of. -/
theorem stepKeepsMemoryCanonical : Obligations.StepKeepsMemoryCanonical := fun s t hs ht =>
  ((outKeepsCanonical_step s).keeps t ht).memoryCanonical hs

/-- Settles O6: queue and EX-target flag are the other two. -/
theorem stepKeepsControlCanonical : Obligations.StepKeepsControlCanonical := fun s t hs ht =>
  ((outKeepsCanonical_step s).keeps t ht).controlCanonical hs

/-! ## The reset state -/

/-- Settles O7: every register of either reset state is the positive true zero and its queue is empty, so that its
memory alone is left to look at. -/
theorem resetMeetsInvariants : Obligations.ResetMeetsInvariants := by
  intro initMem initKeys hm hk s hs
  have floats : State.reset.fpr.wf = true := by decide
  have control : controlCanonical State.reset = true := by decide
  rcases List.mem_pair.1 hs with rfl | rfl
  · exact ⟨by decide, floats, control⟩
  · exact ⟨by simp [memoryCanonical, hm, hk], floats, control⟩

/-- Settles O8: the two reset states differ in memory and keys alone. -/
theorem resetValues : Obligations.ResetValues := by
  intro initMem initKeys
  refine ⟨fun _ => rfl, fun _ => rfl, fun s hs => ?_⟩
  have regs : ∀ r, getReg (State.resetWith initMem initKeys) r = 0 := fun r => by simp [getReg, State.resetWith]
  have floats : ∀ f, getFpr (State.resetWith initMem initKeys) f = FloatValue.zero := fun f => by cases f <;> rfl
  have same : s = { State.resetWith initMem initKeys with mem := s.mem, keys := s.keys } := by
    rcases List.mem_pair.1 hs with rfl | rfl <;> rfl
  rw [same]
  exact ⟨rfl, rfl, rfl, rfl, rfl, rfl, rfl, rfl, rfl, rfl, regs, floats, rfl, rfl, rfl, rfl, rfl, rfl, rfl⟩

end Sys2Proof.Machine

/-! The PSW image (spec/10_state.md R30 to R32) and taking an interruption (spec/60_exceptions.md R551): the fields of
an image, what a load leaves, and that a stored PSW loads back. -/

namespace Sys2Proof.Machine

/-! ## The fields of an image (R30) -/

/-- A PSW has no EC bit. -/
theorem pswImage_ec (p : PSW) : (pswImage p).getLsbD 51 = false := by
  simp only [pswImage, BitVec.getLsbD_append]
  simp

/-- Loading the image of a PSW gives the PSW back but for its interruption code. -/
theorem pswOfImage_pswImage (p : PSW) : pswOfImage (pswImage p) p.ilc = { p with ic := 0 } := by
  simp (disch := omega) only [pswOfImage, pswImage, BitVec.getLsbD_append, BitVec.extractLsb'_append_eq_of_le,
    BitVec.extractLsb'_append_eq_of_add_le, BitVec.extractLsb'_eq_self, Nat.reduceSub]
  simp

theorem ofBool_getLsbD {n : Nat} (v : BitVec n) (k : Nat) : BitVec.ofBool (v.getLsbD k) = v.extractLsb' k 1 := by
  apply BitVec.eq_of_getLsbD_eq
  intro i hi
  obtain rfl : i = 0 := by omega
  simp

/-- The image of a loaded PSW: the bits of the image that was loaded, but for code, ILC and problem bit. -/
theorem pswImage_pswOfImage (img : DWord) (ilc : BitVec 2) (h : img.getLsbD 51 = false) :
    pswImage (pswOfImage img ilc) = img.extractLsb' 49 15 ++ 1#1 ++ 0#16 ++ ilc ++ img.extractLsb' 0 30 := by
  have ec : 0#1 = img.extractLsb' 51 1 := by rw [← ofBool_getLsbD, h]; rfl
  have high : img.extractLsb' 56 8 ++ img.extractLsb' 52 4 ++ 0#1 ++ BitVec.ofBool (img.getLsbD 50) ++
      BitVec.ofBool (img.getLsbD 49) = img.extractLsb' 49 15 := by
    rw [ofBool_getLsbD, ofBool_getLsbD, ec]
    simp only [BitVec.extractLsb'_append_extractLsb'_eq_extractLsb']
  have low : img.extractLsb' 28 2 ++ img.extractLsb' 24 4 ++ img.extractLsb' 0 24 = img.extractLsb' 0 30 := by
    simp only [BitVec.extractLsb'_append_extractLsb'_eq_extractLsb']
  have regroup (x : BitVec 34) (c : BitVec 2) (m : BitVec 4) (a : Addr) : x ++ c ++ m ++ a = x ++ (c ++ m ++ a) := by
    simp only [BitVec.append_assoc, BitVec.cast_eq]
  rw [← high, ← low]
  exact regroup _ _ _ _

/-! ## What a load leaves (R32) -/

theorem loadPswImage_psw (s : State) (img : DWord) (h : img.getLsbD 51 = false) :
    (loadPswImage s img).psw = pswOfImage img s.psw.ilc := by
  by_cases hw : ((pswOfImage img s.psw.ilc).w && (pswOfImage img s.psw.ilc).sm == 0) = true
  · rw [loadPswImage_of_disabled s img h hw]; rfl
  · rw [loadPswImage_of_loads s img h (by simpa using hw)]

theorem loadPswImage_result (s : State) (img : DWord) (h : img.getLsbD 51 = false) :
    (loadPswImage s img).result =
      if (pswOfImage img s.psw.ilc).w = true ∧ (pswOfImage img s.psw.ilc).sm = 0 then .pswLoadFault .disabledWait
      else s.result := by
  by_cases hw : ((pswOfImage img s.psw.ilc).w && (pswOfImage img s.psw.ilc).sm == 0) = true
  · rw [loadPswImage_of_disabled s img h hw, if_pos (by simpa using hw)]; rfl
  · rw [loadPswImage_of_loads s img h (by simpa using hw), if_neg (by simpa using hw)]

theorem memoryCanonical_rising {s : State} (h : memoryCanonical s = true) : Memory.rising none s.mem = true := by
  simp only [memoryCanonical, Bool.and_eq_true] at h
  exact Memory.wf_rising h.1

theorem storePsw_psw (s : State) (a : Addr) : (storePsw s a).psw = s.psw := by rw [onlyMem_storePsw]

theorem storePsw_result (s : State) (a : Addr) : (storePsw s a).result = s.result := by rw [onlyMem_storePsw]

/-- Settles O18: the image stored is read back (`read64_storePsw`), and image and PSW are each other's inverse but for
the fields that a load ignores. -/
theorem pswImageRoundTrip : Obligations.PswImageRoundTrip := by
  refine ⟨fun s a hs hw => ?_, fun s img h => ?_⟩
  · rw [loadPsw, read64_storePsw s a (memoryCanonical_rising hs), loadPswImage_psw _ _ (pswImage_ec _),
      loadPswImage_result _ _ (pswImage_ec _), storePsw_psw, storePsw_result, pswOfImage_pswImage]
    refine ⟨rfl, if_neg ?_⟩
    rintro ⟨wait, zero⟩
    rcases hw with running | enabled
    · exact Bool.false_ne_true (running.symm.trans wait)
    · exact enabled zero
  · rw [loadPswImage_psw s img h, pswImage_pswOfImage img s.psw.ilc h]

/-! ## The image in storage (R30) -/

/-- A wide read depends on the memory alone. -/
theorem read64_congr {s t : State} (h : t.mem = s.mem) (a : Addr) : read64 t a = read64 s a :=
  congrArg (BitVec.ofNat 64) (readBE_congr a 8 fun _ _ => readByte_congr h _)

/-- The eight bytes of an image, cut before the instruction address. -/
theorem read64_eq_fields (s : State) (a : Addr) :
    read64 s a = read32 s a ++ readByte s (a + 4) ++
      (readByte s (a + 5) ++ readByte s (a + 6) ++ readByte s (a + 7)) := by
  have five : BitVec.ofNat 40 (readBE s a 5) = read32 s a ++ readByte s (a + 4) := by
    rw [← ofNat_readBE_one s (a + 4)]
    exact ofNat_readBE_add s a 4 1
  have two : BitVec.ofNat 16 (readBE s (a + 5) 2) = readByte s (a + 5) ++ readByte s (a + 6) := by
    rw [show a + 6 = a + 5 + 1 by rw [BitVec.add_assoc]; rfl]
    exact read16_eq_append s (a + 5)
  have three : BitVec.ofNat 24 (readBE s (a + 5) 3) =
      readByte s (a + 5) ++ readByte s (a + 6) ++ readByte s (a + 7) := by
    rw [← two, ← ofNat_readBE_one s (a + 7), show a + 7 = offset (a + 5) 2 by rw [offset, BitVec.add_assoc]; rfl]
    exact ofNat_readBE_add s (a + 5) 2 1
  rw [← five, ← three]
  exact ofNat_readBE_add s a 5 3

theorem read64_ec (s : State) (a : Addr) : (read64 s a).getLsbD 51 = (readByte s (a + 1)).getLsbD 3 := by
  simp only [read64_eq_fields, read32_eq_append, BitVec.getLsbD_append]
  simp

/-- The PSW that the image at an address loads, byte by byte. -/
theorem pswOfImage_read64 (s : State) (a : Addr) (ilc : BitVec 2) : pswOfImage (read64 s a) ilc = pswAt s a ilc := by
  simp (disch := omega) only [pswOfImage, pswAt, read64_eq_fields, read32_eq_append, BitVec.getLsbD_append,
    BitVec.extractLsb'_append_eq_of_le, BitVec.extractLsb'_append_eq_of_add_le, BitVec.extractLsb'_eq_self,
    Nat.reduceSub]
  simp

/-! ## Taking an interruption (R551) -/

/-- A PSW stored below a doubleword leaves the doubleword as it was. -/
theorem read64_storePsw_above (s : State) (a : Addr) (n : Nat) (h : 8 ≤ n) (h' : n + 8 ≤ 2 ^ 24) :
    read64 (storePsw s a) (offset a n) = read64 s (offset a n) := by
  refine congrArg (BitVec.ofNat 64) (readBE_congr _ 8 fun k hk => readByte_storePsw_outside s a _ ?_)
  rw [offset_offset, offset_sub, Nat.mod_eq_of_lt (by omega)]
  omega

/-- An interruption loads the new PSW into the state whose PSW, with the code in it, is stored. -/
theorem initiate_eq (s : State) (old : Addr) (n : Nat) (code : BitVec 16) (h : 8 ≤ n) (h' : n + 8 ≤ 2 ^ 24) :
    initiate s old (offset old n) code = loadPswImage (storePsw (setIc s code) old) (read64 s (offset old n)) := by
  rw [initiate, loadPsw, read64_storePsw_above _ _ _ h h']
  rfl

/-- Each class's new PSW lies 64 bytes above its old one. -/
theorem newLocation_eq (p : Addr × Addr) (hp : p ∈ [((24 : Addr), (88 : Addr)), (32, 96), (40, 104), (56, 120)]) :
    p.2 = offset p.1 64 := by
  simp only [List.mem_cons, List.not_mem_nil, or_false] at hp
  rcases hp with rfl | rfl | rfl | rfl <;> rfl

/-- Settles O15: an interruption is a store of the old PSW (`initiate_mem`) and a load of the new one, whose image the
store has left as it was (`initiate_eq`). -/
theorem interruptionSwapsPsw : Obligations.InterruptionSwapsPsw := by
  intro s code hs p hp t u
  have frame : t = { s with psw := t.psw, mem := t.mem, result := t.result } := initiate_frame s p.1 p.2 code
  have mem : t.mem = (write64 s p.1 (pswImage { s.psw with ic := code })).mem := initiate_mem s p.1 p.2 code
  have load : t = loadPswImage (storePsw (setIc s code) p.1) (read64 s p.2) := by
    have := initiate_eq s p.1 64 code (by norm_num) (by norm_num)
    rwa [← newLocation_eq p hp] at this
  have stored : (storePsw (setIc s code) p.1).psw = { s.psw with ic := code } := storePsw_psw _ _
  have field : pswOfImage (read64 s p.2) (storePsw (setIc s code) p.1).psw.ilc = u := by
    rw [stored]
    exact pswOfImage_read64 s p.2 _
  refine ⟨?_, fun x hx => ?_, fun r _ => getReg_congr ?_ r, fun f _ => getFpr_congr ?_ f, ?_, fun ec => ?_,
    fun ec => ?_⟩
  · exact (read64_congr mem p.1).trans (read64_write64 s p.1 _ (memoryCanonical_rising hs))
  · exact (readByte_congr mem x).trans (readByte_writeBE_outside 8 s p.1 x _ hx)
  · rw [frame]
  · rw [frame]
  · rw [frame]
    simp [SameControl]
  · rw [← read64_ec] at ec
    rw [load, loadPswImage_of_ec _ _ ec]
    exact ⟨stored, rfl⟩
  · rw [← read64_ec] at ec
    rw [load, loadPswImage_psw _ _ ec, loadPswImage_result _ _ ec, field, storePsw_result]
    exact ⟨rfl, rfl⟩

end Sys2Proof.Machine

/-! STCK (spec/41_psw_system.md R179): the value stored, and that it grows. -/

namespace Sys2Proof.Machine

theorem clockValue_eq (last : DWord) (us : Nat) :
    clockValue last us =
      if last.toNat < (BitVec.ofNat 52 us ++ 0#12 : DWord).toNat then BitVec.ofNat 52 us ++ 0#12 else last + 1 := by
  unfold clockValue
  split
  · next h => rw [if_neg (by omega)]
  · next h => rw [if_pos (by omega)]

/-- Both branches of R179 give a greater value, while there is one. -/
theorem lt_clockValue (last : DWord) (us : Nat) (h : last.toNat < 2 ^ 64 - 1) :
    last.toNat < (clockValue last us).toNat := by
  rw [clockValue_eq]
  split
  · assumption
  · rw [BitVec.toNat_add, show (1 : DWord).toNat = 1 from rfl, Nat.mod_eq_of_lt (by omega)]
    omega

/-- STCK: the clock read once, the new last value stored, condition code 0. -/
theorem exec_stck (b2 : RegNum) (d2 : Disp) (s : State) :
    let v := clockValue s.lastClock (hostTime s)
    exec (.stck b2 d2) s = .next { s with
      psw := { s.psw with cc := 0 }, mem := (write64 s (ea s b2 d2) v).mem, lastClock := v
      clockReads := s.clockReads + 1 } := by
  intro v
  let u : State := { s with lastClock := v, clockReads := s.clockReads + 1 }
  have stored : write64 u (ea s b2 d2) v = { u with mem := (write64 s (ea s b2 d2) v).mem } := by
    have mem : (write64 u (ea s b2 d2) v).mem = (write64 s (ea s b2 d2) v).mem := mem_writeBE_congr 8 _ _ rfl
    rw [← mem]
    exact onlyMem_writeBE 8 u (ea s b2 d2) _
  have ran : exec (.stck b2 d2) s = .next (setCc (write64 u (ea s b2 d2) v) 0) := rfl
  rw [ran, stored]
  rfl

/-- Settles O42: the stored value is `clockValue`, read back from the canonical memory it is stored in. -/
theorem storeClockIncreases : Obligations.StoreClockIncreases := by
  intro s b2 d2 hs a host
  refine ⟨_, exec_stck b2 d2 s, ?_, lt_clockValue _ _, clockValue_eq _ _, fun x hx => ?_, rfl,
    fun r _ => getReg_congr rfl r, fun f _ => getFpr_congr rfl f, by simp [SameControl]⟩
  · exact (read64_congr (s := write64 s a _) rfl a).trans (read64_write64 s a _ (memoryCanonical_rising hs))
  · exact (readByte_congr (s := write64 s a _) rfl x).trans (readByte_writeBE_outside 8 s a x _ hx)

end Sys2Proof.Machine

/-! Where instructions raise the specification exception (spec/10_state.md R34, spec/20_memory.md R75, R369, R506,
R507): each check of an operand answers the same trap, so that which of two checks fails first makes no difference. -/

namespace Sys2Proof.Machine

theorem traps_of_raise {i : Instr} {s : State} {r : Result} (h : exec i s = finish r)
    (hr : r = raise s .specification) : Traps i s .specification :=
  traps_of (fun _ => rfl) (h.trans (congrArg finish hr))

/-! ## A check before a trap -/

theorem whenEven_raise (r : RegNum) (s : State) : whenEven r s (raise s .specification) = raise s .specification :=
  ite_self _

theorem whenEven_whenEven_of_odd (r r' : RegNum) (s : State) (k : Result) (h : r'.getLsbD 0 = true) :
    whenEven r s (whenEven r' s k) = raise s .specification := by
  rw [whenEven_of_odd r' s k h, whenEven_raise]

/-- Two floating-point registers of which one does not exist. -/
theorem withFpr_withFpr_of_none (r r' : RegNum) (s : State) (k : FReg → FReg → Result)
    (h : fregOf r = none ∨ fregOf r' = none) :
    (withFpr r s fun x => withFpr r' s fun y => k x y) = raise s .specification := by
  cases hr : fregOf r with
  | none => exact withFpr_of_none r s _ hr
  | some x =>
    rw [withFpr_of_some r s _ x hr]
    exact withFpr_of_none r' s _ (h.resolve_left (by simp [hr]))

/-! ## The instructions by their checks -/

section Checks

variable {i : Instr} {s : State}

theorem traps_of_odd {r : RegNum} {k : Result} (h : r.getLsbD 0 = true) (hx : exec i s = finish (whenEven r s k)) :
    Traps i s .specification := traps_of_raise hx (whenEven_of_odd r s k h)

theorem traps_of_odd_second {r r' : RegNum} {k : Result} (h : r'.getLsbD 0 = true)
    (hx : exec i s = finish (whenEven r s (whenEven r' s k))) : Traps i s .specification :=
  traps_of_raise hx (whenEven_whenEven_of_odd r r' s k h)

theorem traps_of_noFpr {r : RegNum} {k : FReg → Result} (h : fregOf r = none)
    (hx : exec i s = finish (withFpr r s k)) : Traps i s .specification :=
  traps_of_raise hx (withFpr_of_none r s k h)

theorem traps_of_noFprs {r r' : RegNum} {k : FReg → FReg → Result} (h : fregOf r = none ∨ fregOf r' = none)
    (hx : exec i s = finish (withFpr r s fun x => withFpr r' s fun y => k x y)) : Traps i s .specification :=
  traps_of_raise hx (withFpr_withFpr_of_none r r' s k h)

theorem traps_of_lengths {l1 l2 : RegNum} {k : Result} (h : 8 ≤ l2.toNat ∨ l1.toNat ≤ l2.toNat)
    (hx : exec i s = finish (whenShorter (byteCount l1) (byteCount l2) s k)) : Traps i s .specification :=
  traps_of_raise hx (whenShorter_of_not _ _ s k (by unfold byteCount; omega))

end Checks

/-- LPSW from an address that is no doubleword boundary (R75, R171). -/
theorem traps_lpsw_misaligned (s : State) (i2 : Byte) (b1 : RegNum) (d1 : Disp) (h : (ea s b1 d1).toNat % 8 ≠ 0) :
    Traps (.lpsw i2 b1 d1) s .specification := traps_of_raise rfl (if_neg h)

/-- CS at an address that is no word boundary (R75, R330). -/
theorem traps_cs_misaligned (s : State) (r1 r3 b2 : RegNum) (d2 : Disp) (h : (ea s b2 d2).toNat % 4 ≠ 0) :
    Traps (.cs r1 r3 b2 d2) s .specification := traps_of_raise rfl (whenAligned_of_misaligned 2 _ s _ h)

/-- CDS at an address that is no doubleword boundary (R75, R331). -/
theorem traps_cds_misaligned (s : State) (r1 r3 b2 : RegNum) (d2 : Disp) (h : (ea s b2 d2).toNat % 8 ≠ 0) :
    Traps (.cds r1 r3 b2 d2) s .specification := by
  refine traps_of_raise rfl ?_
  rw [whenAligned_of_misaligned 3 _ s _ h, whenEven_raise, whenEven_raise]

/-- Settles O21: each listed instruction starts with the check that its list names. -/
theorem specificationTraps : Obligations.SpecificationTraps := by
  intro s r1 r2 x2 b1 b2 l1 l2 d1 d2 i2
  simp only [List.forall_mem_cons, List.not_mem_nil, false_imp_iff, implies_true, and_true]
  refine ⟨fun odd => ?_, fun odd => ?_, fun none => ?_, fun none => ?_, traps_lpsw_misaligned s i2 b1 d1,
    traps_cs_misaligned s r1 r2 b2 d2, traps_cds_misaligned s r1 r2 b2 d2, fun lengths => ?_⟩
  · and_intros <;> exact traps_of_odd odd rfl
  · and_intros <;> exact traps_of_odd_second odd rfl
  · and_intros <;> exact traps_of_noFpr none rfl
  · and_intros <;> exact traps_of_noFprs none rfl
  · exact ⟨traps_of_lengths lengths rfl, traps_of_lengths lengths rfl⟩

end Sys2Proof.Machine

/-! The boundary check (spec/60_exceptions.md R571 to R577): what it gives with no delivery and with one, and from these
two that it is safe. -/

namespace Sys2Proof.Machine

/-! ## After step (a) -/

theorem isPending_congr {s t : State} (ht : t.timerPending = s.timerPending) (hd : t.devices = s.devices)
    (src : SourceId) : isPending t src = isPending s src := by
  cases src <;> simp only [isPending, hasAsync, hasCompletion, ht, hd]

theorem deliverable_enqueueAsync (s : State) (src : SourceId) :
    deliverable (enqueueAsync s) src = deliverable s src := by
  rw [enqueueAsync_frame]
  cases src <;> rfl

theorem deadTimeOver_enqueueAsync (s : State) : deadTimeOver (enqueueAsync s) = deadTimeOver s := by
  rw [enqueueAsync_frame]
  rfl

theorem deadTimeOver_iff (s : State) :
    deadTimeOver s = true ↔ s.psw.w = true ∨ Config.insnsBeforeInterrupt ≤ s.sinceIrq := by
  simp only [deadTimeOver, Bool.or_eq_true, decide_eq_true_eq]

/-- Step (a) does nothing where no source is newly pending. -/
theorem enqueueAsync_of_none (s : State) (h : ∀ src, hasAsync s src = false) : enqueueAsync s = s := by
  rw [enqueueAsync_frame, enqueueAsync_queue]
  simp [h]

/-! ## Step (b) -/

theorem deliverFirst_of_find? (s : State) (src : SourceId) (hf : s.queue.find? (deliverable s) = some src)
    (hd : deadTimeOver s = true) : deliverFirst s = deliver s src := by
  simp only [deliverFirst, hf, hd, if_true]

theorem deliverFirst_of_none (s : State)
    (h : s.queue.find? (deliverable s) = none ∨ deadTimeOver s = false) : deliverFirst s = s := by
  rcases deliverFirst_cases s with same | ⟨src, hf, hd, -⟩
  · exact same
  · rcases h with h | h
    · rw [h] at hf; cases hf
    · rw [h] at hd; cases hd

/-! ## The check without and with a delivery -/

/-- Without a delivery the check queues what is newly pending and drops what is idle. -/
theorem boundaryCheck_of_none (s : State) (hb : s.result = .budget)
    (h : (enqueueAsync s).queue.find? (deliverable s) = none ∨ deadTimeOver s = false) :
    boundaryCheck s = { s with queue := (enqueueAsync s).queue.filter (isPending s) } := by
  have idle : deliverFirst (enqueueAsync s) = enqueueAsync s := by
    refine deliverFirst_of_none _ ?_
    rwa [funext (deliverable_enqueueAsync s), deadTimeOver_enqueueAsync]
  have budget : (enqueueAsync s).result = .budget := by rw [enqueueAsync_frame]; exact hb
  have pending : isPending (enqueueAsync s) = isPending s := by
    funext src
    rw [enqueueAsync_frame]
    exact isPending_congr rfl rfl src
  have check : boundaryCheck s = dropIdle (enqueueAsync s) := by rw [boundaryCheck, idle]; exact if_pos budget
  rw [check, dropIdle, pending, enqueueAsync_frame]

/-- With a delivery the check initiates it on the state after step (a); once the new PSW is loaded it restarts the
counter and drops what is idle. -/
theorem boundaryCheck_of_find? (s : State) (src : SourceId)
    (hf : (enqueueAsync s).queue.find? (deliverable s) = some src) (hd : deadTimeOver s = true) :
    let v := initiateSource (enqueueAsync s) src
    boundaryCheck s =
      if v.result = .budget then { v with sinceIrq := 0, queue := (enqueueAsync s).queue.filter (isPending v) }
      else v := by
  intro v
  have delivered : deliverFirst (enqueueAsync s) = deliver (enqueueAsync s) src := by
    refine deliverFirst_of_find? _ _ ?_ ?_
    · rwa [funext (deliverable_enqueueAsync s)]
    · rwa [deadTimeOver_enqueueAsync]
  obtain ⟨-, -, -, queue, -⟩ := initiateSource_frame (enqueueAsync s) src
  have pending : isPending { v with sinceIrq := 0 } = isPending v := funext (isPending_congr rfl rfl)
  by_cases loaded : v.result = .budget
  · have counted : deliver (enqueueAsync s) src = { v with sinceIrq := 0 } := if_pos loaded
    rw [if_pos loaded, boundaryCheck, delivered, counted, if_pos loaded, dropIdle, pending, ← queue]
  · have failed : deliver (enqueueAsync s) src = v := if_neg loaded
    rw [if_neg loaded, boundaryCheck, delivered, failed, if_neg loaded]

/-- The two things a boundary check can do. -/
theorem boundaryCheck_cases (s : State) (hb : s.result = .budget) :
    boundaryCheck s = { s with queue := (enqueueAsync s).queue.filter (isPending s) } ∨
      ∃ src, (enqueueAsync s).queue.find? (deliverable s) = some src ∧ deadTimeOver s = true := by
  cases hd : deadTimeOver s with
  | false => exact .inl (boundaryCheck_of_none s hb (.inr hd))
  | true =>
    cases hf : (enqueueAsync s).queue.find? (deliverable s) with
    | none => exact .inl (boundaryCheck_of_none s hb (.inl hf))
    | some src => exact .inr ⟨src, rfl, rfl⟩

/-- After a check that no failed PSW load ended, only sources with a condition pending are queued (R572 c). -/
theorem isPending_of_mem_boundaryCheck (s : State) (hb : (boundaryCheck s).result = .budget) (src : SourceId)
    (h : src ∈ (boundaryCheck s).queue) : isPending (boundaryCheck s) src = true := by
  have dropped : boundaryCheck s = dropIdle (deliverFirst (enqueueAsync s)) := by
    by_cases loaded : (deliverFirst (enqueueAsync s)).result = .budget
    · exact if_pos loaded
    · have kept : boundaryCheck s = deliverFirst (enqueueAsync s) := if_neg loaded
      exact absurd (kept ▸ hb) loaded
  rw [dropped] at h ⊢
  exact (isPending_congr rfl rfl src).trans (List.mem_filter.1 h).2

theorem deliverable_iff (s : State) (src : SourceId) :
    deliverable s src = true ↔ s.psw.sm.getLsbD (maskBit s src) = true ∧ isPending s src = true := by
  simp only [deliverable, Bool.and_eq_true]

/-- The check delivers nothing, or one queued source that is pending and enabled, when due. -/
theorem boundaryCheck_delivers_at_most_one (s : State) (hb : s.result = .budget) :
    let q := enqueueAsync s
    let t := boundaryCheck s
    (t.psw = s.psw ∧ t.mem = s.mem ∧ t.sinceIrq = s.sinceIrq) ∨
      ∃ src ∈ q.queue, isPending s src = true ∧ s.psw.sm.getLsbD (maskBit s src) = true ∧
        (s.psw.w = true ∨ Config.insnsBeforeInterrupt ≤ s.sinceIrq) ∧
        t.psw = (initiateSource q src).psw ∧ t.mem = (initiateSource q src).mem := by
  intro q t
  rcases boundaryCheck_cases s hb with none | ⟨src, hf, hd⟩
  · exact .inl (by simp only [t, none, and_self])
  · obtain ⟨enabled, pending⟩ := (deliverable_iff s src).1 (List.find?_some hf)
    have same : t.psw = (initiateSource q src).psw ∧ t.mem = (initiateSource q src).mem := by
      simp only [t, boundaryCheck_of_find? s src hf hd]
      split <;> exact ⟨rfl, rfl⟩
    exact .inr ⟨src, List.mem_of_find?_eq_some hf, pending, enabled, (deadTimeOver_iff s).1 hd, same⟩

/-! ## The terms of the claim -/

/-- The bit of the system mask for a source, in the claim's words (R573). -/
theorem maskBit_device (s : State) (n : Nat) :
    maskBit s (.device n) = ((s.devices[n]?).map fun d => if d.channel ≤ 5 then 7 - d.channel else 1).getD 1 := by
  cases h : s.devices[n]? with
  | none => simp only [maskBit, h, Option.map_none, Option.getD_none]
  | some d => simp only [maskBit, h, channelBit, Nat.lt_succ_iff, Option.map_some, Option.getD_some]

/-- A device's delivery (R576): an asynchronous condition before a completion, that flag alone cleared. -/
theorem initiateSource_device (s : State) (n : Nat) (d : Device) (hd : s.devices[n]? = some d) :
    let d' := if d.async then { d with async := false } else { d with completion := false }
    let u := { s with devices := s.devices.set n d', statusDraws := s.statusDraws + 1 }
    initiateSource s (.device n) = initiate (write64 u 64 (Config.channelStatus s.statusDraws)) 56 120 d.address := by
  have first : hasAsync s (.device n) = d.async := by simp only [hasAsync, hd, Option.any_some]
  simp only [initiateSource, initiateDevice, first, hd]

/-- The claim's first statement: with nothing newly pending and nothing deliverable, only idle sources are dropped. -/
theorem boundaryCheck_of_nothing_pending (s : State) (hb : s.result = .budget) (ht : s.timerPending = false)
    (hd : ∀ d ∈ s.devices, d.async = false)
    (hq : ∀ src ∈ s.queue, (s.psw.sm.getLsbD (maskBit s src) && isPending s src) = false) :
    boundaryCheck s = { s with queue := s.queue.filter (isPending s) } := by
  have async : ∀ src, hasAsync s src = false := by
    rintro (_ | n)
    · exact ht
    · cases h : s.devices[n]? with
      | none => simp only [hasAsync, h, Option.any_none]
      | some d => simp only [hasAsync, h, Option.any_some, hd d (List.mem_of_getElem? h)]
  have same := enqueueAsync_of_none s async
  have none : (enqueueAsync s).queue.find? (deliverable s) = none := by
    rw [same, List.find?_eq_none]
    intro src h
    rw [deliverable, hq src h]
    exact Bool.false_ne_true
  rw [boundaryCheck_of_none s hb (.inl none), same]

/-- Settles O13: the three statements are those of a check with nothing pending, of what a check can deliver, and of
the two equations of a check without and with a delivery. -/
theorem boundaryCheckIsSafe : Obligations.BoundaryCheckIsSafe := by
  refine ⟨boundaryCheck_of_nothing_pending, fun s hb hq => ⟨(keepsCanonical_boundaryCheck s).queue hq,
    isPending_of_mem_boundaryCheck s, boundaryCheck_delivers_at_most_one s hb⟩, fun s hb => ?_⟩
  intro flag async pending bit ready listed queue due t delivers
  have async_eq (u : State) (src : SourceId) : async u src = hasAsync u src := by
    cases src <;> simp [async, flag, hasAsync]
  have pending_eq (u : State) : pending u = isPending u := by
    funext src
    cases src <;> simp [pending, async_eq, flag, isPending, hasCompletion]
  have ready_eq : ready = deliverable s := by
    funext src
    have : bit src = maskBit s src := by
      cases src with
      | timer => rfl
      | device n => exact (maskBit_device s n).symm
    simp only [ready, this, pending_eq, deliverable]
  have queue_eq : queue = (enqueueAsync s).queue := by
    simp only [enqueueAsync_queue, queue, async_eq]
    rfl
  have q_eq : enqueueAsync s = { s with queue := queue } := by rw [queue_eq]; exact enqueueAsync_frame s
  refine ⟨fun idle => ?_, fun before later src hq hbefore hready hdue => ?_⟩
  · simp only [t, pending_eq, queue_eq]
    refine boundaryCheck_of_none s hb ?_
    rw [← queue_eq, ← ready_eq, List.find?_eq_none, ← Bool.not_eq_true, deadTimeOver_iff]
    exact idle.imp_left fun h src hs => by simp [h src hs]
  · have found : (enqueueAsync s).queue.find? (deliverable s) = some src := by
      rw [← queue_eq, ← ready_eq, List.find?_eq_some_iff_append]
      exact ⟨hready, before, later, hq, fun x hx => by simp [hbefore x hx]⟩
    have check := boundaryCheck_of_find? s src found ((deadTimeOver_iff s).2 hdue)
    rw [← queue_eq, q_eq] at check
    simp only [delivers, pending_eq]
    refine ⟨?_, ?_⟩
    · rintro rfl
      exact check
    · rintro n d rfl hd
      rw [initiateSource_device { s with queue := queue } n d hd] at check
      exact check

end Sys2Proof.Machine

/-! Steps that execute no instruction (spec/40_decode_execute.md R142, R143, R150, R151). -/

namespace Sys2Proof.Machine

theorem step_of_halted (s : State) (halted : s.halt = true) : step s = .next (setResult s .budget) := by
  rcases iteration_cases s with ⟨-, run⟩ | ⟨on, -⟩ | ⟨on, -⟩ | ⟨on, -⟩
  · exact run
  all_goals exact absurd (on.symm.trans halted) Bool.false_ne_true

theorem step_of_waiting (s : State) (on : s.halt = false)
    (loaded : (boundaryCheck (setResult s .budget)).result = .budget)
    (waits : (boundaryCheck (setResult s .budget)).psw.w = true) :
    step s = .next (setResult (boundaryCheck (setResult s .budget)) .enabledWait) := by
  rcases iteration_cases s with ⟨halted, -⟩ | ⟨-, failed, -⟩ | ⟨-, -, -, run⟩ | ⟨-, -, runs, -⟩
  · exact absurd (on.symm.trans halted) Bool.false_ne_true
  · exact absurd loaded failed
  · exact run
  · exact absurd (runs.symm.trans waits) Bool.false_ne_true

theorem step_of_running (s : State) (on : s.halt = false)
    (loaded : (boundaryCheck (setResult s .budget)).result = .budget)
    (runs : (boundaryCheck (setResult s .budget)).psw.w = false) :
    step s = countStep (instrStep (boundaryCheck (setResult s .budget))) := by
  rcases iteration_cases s with ⟨halted, -⟩ | ⟨-, failed, -⟩ | ⟨-, -, waits, -⟩ | ⟨-, -, -, run⟩
  · exact absurd (on.symm.trans halted) Bool.false_ne_true
  · exact absurd loaded failed
  · exact absurd (runs.symm.trans waits) Bool.false_ne_true
  · exact run

/-- An odd `pc` is a specification exception before anything is fetched (R74, R143). -/
theorem instrStep_of_odd (s : State) (odd : s.psw.pc.getLsbD 0 = true) :
    instrStep s = .next (programInterrupt s .specification) := if_pos odd

/-- Settles O11: the three cases of an iteration in which no instruction is fetched. -/
theorem stepWithoutInstruction : Obligations.StepWithoutInstruction := by
  intro s b
  refine ⟨step_of_halted s, step_of_waiting s, fun on loaded runs odd => ?_⟩
  rw [step_of_running s on loaded runs, instrStep_of_odd _ odd]
  rfl

end Sys2Proof.Machine

/-! Bytes stored in turn at distinct places of memory (spec/20_memory.md R86): the shape of every storage loop whose
operands may overlap. What a source byte is read as depends only on how many places have been stored before it. -/

namespace Sys2Proof.Machine

theorem OnlyMem.psw {s t : State} (h : OnlyMem s t) : t.psw = s.psw := by rw [h]

/-- The state after `k` places have been stored, each value formed from the states before the previous place and
before this one. -/
def placesStored (place : Nat → Addr) (value : Nat → State → State → Byte) (s : State) : Nat → State
  | 0 => s
  | 1 => writeByte s (place 0) (value 0 s s)
  | k + 2 =>
    let u := placesStored place value s (k + 1)
    writeByte u (place (k + 1)) (value (k + 1) (placesStored place value s k) u)

/-- `rank` tells which of the first `n` places an address is, and a number from `n` on for every other address. -/
def IsRank (place : Nat → Addr) (rank : Addr → Nat) (n : Nat) : Prop := ∀ k < n, ∀ x, x = place k ↔ rank x = k

/-! ## The two orders of places -/

/-- Left to right, the rank of an address is its distance above the first place. -/
theorem isRank_upward (a : Addr) (n : Nat) (hn : n ≤ 2 ^ 24) : IsRank (offset a) (fun x => (x - a).toNat) n := by
  intro k hk x
  have dist : (offset a k - a).toNat = k := by rw [offset_sub, Nat.mod_eq_of_lt (by omega)]
  exact ⟨fun e => e ▸ dist, fun e => e ▸ eq_offset a x⟩

/-- Place `k` from the right of the field at `a` with length code `m`. -/
def placeFromRight (a : Addr) (m k : Nat) : Addr := offset a (m - k)

/-- Right to left, the rank of an address is its distance below the last byte of the field. -/
theorem isRank_placeFromRight (a : Addr) (m : Nat) (hm : m < 2 ^ 24) :
    IsRank (placeFromRight a m) (fun x => (offset a m - x).toNat) (m + 1) := by
  intro k hk x
  have place : x = placeFromRight a m k ↔ x.toNat = (a.toNat + (m - k)) % 2 ^ 24 := by
    rw [← BitVec.toNat_inj, placeFromRight, offset, BitVec.toNat_add, BitVec.toNat_ofNat, Nat.add_mod_mod]
  have dist : (offset a m - x).toNat = (2 ^ 24 - x.toNat + (a.toNat + m)) % 2 ^ 24 := by
    rw [offset, BitVec.toNat_sub, BitVec.toNat_add, BitVec.toNat_ofNat]
    omega
  have := x.isLt
  have := a.isLt
  change _ ↔ (offset a m - x).toNat = k
  rw [place, dist]
  omega

section Places

variable (place : Nat → Addr) (value : Nat → State → State → Byte) (s : State)

theorem placesStored_succ (k : Nat) :
    placesStored place value s (k + 1) = writeByte (placesStored place value s k) (place k)
      (value k (placesStored place value s (k - 1)) (placesStored place value s k)) := by
  cases k <;> rfl

theorem onlyMem_placesStored (k : Nat) : OnlyMem s (placesStored place value s k) := by
  induction k with
  | zero => exact OnlyMem.refl s
  | succ k ih =>
    rw [placesStored_succ]
    exact ih.trans (onlyMem_writeByte _ _ _)

theorem rising_placesStored (h : Memory.rising none s.mem = true) (k : Nat) :
    Memory.rising none (placesStored place value s k).mem = true := by
  induction k with
  | zero => exact h
  | succ k ih =>
    rw [placesStored_succ]
    exact Memory.rising_none_write _ _ _ ih

variable {place} {rank : Addr → Nat} {n : Nat} (hr : IsRank place rank n)

include hr

/-- An address that is not among the places from `i` to `j` reads the same after `i` as after `j` of them. -/
theorem readByte_placesStored_eq {i j : Nat} (hij : i ≤ j) (hj : j ≤ n) (x : Addr) (hx : rank x < i ∨ j ≤ rank x) :
    readByte (placesStored place value s j) x = readByte (placesStored place value s i) x := by
  induction j, hij using Nat.le_induction with
  | base => rfl
  | succ j hij ih =>
    have other : x ≠ place j := fun e => by
      have := (hr j (by omega) x).1 e
      omega
    rw [placesStored_succ, readByte_writeByte_ne _ _ _ _ other, ih (by omega) (by omega)]

/-- After `i` of the `n` places, an address holds its final byte if it is one of them, else its first one. -/
theorem readByte_placesStored {i : Nat} (hi : i ≤ n) (x : Addr) :
    readByte (placesStored place value s i) x =
      if rank x < i then readByte (placesStored place value s n) x else readByte s x := by
  split
  · next early => exact (readByte_placesStored_eq value s hr hi le_rfl x (.inl early)).symm
  · next late => exact readByte_placesStored_eq value s hr (Nat.zero_le i) hi x (.inr (by omega))

/-- Outside the places nothing is changed. -/
theorem readByte_placesStored_outside (x : Addr) (hx : n ≤ rank x) :
    readByte (placesStored place value s n) x = readByte s x :=
  readByte_placesStored_eq value s hr (Nat.zero_le n) le_rfl x (.inr hx)

/-- At the end place `k` holds the value formed when `k` places had been stored. -/
theorem readByte_placesStored_place (h : Memory.rising none s.mem = true) {k : Nat} (hk : k < n) :
    readByte (placesStored place value s n) (place k) =
      value k (placesStored place value s (k - 1)) (placesStored place value s k) := by
  have mine : rank (place k) = k := (hr k hk _).1 rfl
  rw [readByte_placesStored_eq value s hr (Nat.succ_le_of_lt hk) le_rfl _ (.inl (by omega)), Nat.succ_eq_add_one,
    placesStored_succ, readByte_writeByte _ _ _ _ (rising_placesStored place value s h k), if_pos rfl]

end Places

/-! ## MVC, MVN, MVZ, NC, OC, XC (R280 c, R304 to R306) -/

/-- The value that `combineBytes` stores at place `k`. -/
def combinedByte (f : Byte → Byte → Byte) (a c : Addr) (k : Nat) (_ u : State) : Byte :=
  f (readByte u (offset a k)) (readByte u (offset c k))

/-- With `k` places stored, the loop of the `n` further ones stores those. -/
theorem combineBytes_placesStored (f : Byte → Byte → Byte) (a c : Addr) (s : State) (n k : Nat) :
    combineBytes f n (offset a k) (offset c k) (placesStored (offset a) (combinedByte f a c) s k) =
      placesStored (offset a) (combinedByte f a c) s (k + n) := by
  induction n generalizing k with
  | zero => rfl
  | succ n ih =>
    have step := ih (k + 1)
    rw [placesStored_succ] at step
    rw [combineBytes, offset_one, offset_one, ← Nat.add_assoc, Nat.add_right_comm]
    exact step

theorem combineBytes_eq (f : Byte → Byte → Byte) (n : Nat) (a c : Addr) (s : State) :
    combineBytes f n a c s = placesStored (offset a) (combinedByte f a c) s n := by
  have start := combineBytes_placesStored f a c s n 0
  rwa [offset_zero, offset_zero, Nat.zero_add] at start

/-- Result byte `k` of a storage-to-storage loop, with any overlap. -/
theorem readByte_combineBytes (f : Byte → Byte → Byte) {n : Nat} (hn : n ≤ 2 ^ 24) (a c : Addr) (s : State)
    (h : Memory.rising none s.mem = true) {k : Nat} (hk : k < n) :
    let t := combineBytes f n a c s
    readByte t (offset a k) = f (readByte s (offset a k))
      (if (offset c k - a).toNat < k then readByte t (offset c k) else readByte s (offset c k)) := by
  intro t
  have ranked := isRank_upward a n hn
  have place : (offset a k - a).toNat = k := (ranked k hk _).1 rfl
  simp only [t, combineBytes_eq]
  rw [readByte_placesStored_place _ _ ranked h hk, combinedByte, readByte_placesStored _ _ ranked hk.le,
    readByte_placesStored _ _ ranked hk.le, if_neg (by omega)]

theorem all_readField_iff (p : Byte → Bool) (t : State) (a : Addr) (n : Nat) :
    (readField t a n).all p = true ↔ ∀ k < n, p (readByte t (offset a k)) = true := by
  induction n generalizing a with
  | zero => simp [readField]
  | succ n ih =>
    rw [readField, List.all_cons, Bool.and_eq_true, ih, Nat.forall_lt_succ_left, offset_zero]
    simp only [offset_succ]

/-- A Boolean storage-to-storage loop: the condition code says whether all its result bytes are zero (R280 a). -/
theorem finish_booleanField (f : Byte → Byte → Byte) (l : Nat) (a c : Addr) (s : State) :
    let t := combineBytes f (l + 1) a c s
    finish (booleanField f (l + 1) a c s) =
      .next (setCc t (if ∀ k ≤ l, readByte t (a + BitVec.ofNat 24 k) = 0 then 0 else 1)) := by
  intro t
  have code : ccBoolean ((readField t a (l + 1)).all (· == 0)) =
      if ∀ k ≤ l, readByte t (a + BitVec.ofNat 24 k) = 0 then 0 else 1 := by
    simp only [ccBoolean, all_readField_iff, beq_iff_eq, Nat.lt_succ_iff]
    rfl
  rw [← code]
  rfl

/-- Settles O35: each of the six is `combineBytes` with its own function, the Boolean ones with a condition code. -/
theorem fieldOperations : Obligations.FieldOperations := by
  intro s l b1 b2 d1 d2 canonical a c p hp
  let u := combineBytes p.2.1 (l.toNat + 1) a c s
  have ran : exec p.1 s = finish (if p.2.2 then booleanField p.2.1 (l.toNat + 1) a c s else done u) := by
    simp only [List.mem_cons, List.not_mem_nil, or_false] at hp
    rcases hp with rfl | rfl | rfl | rfl | rfl | rfl <;> rfl
  have bytes := fun k (hk : k ≤ l.toNat) => readByte_combineBytes p.2.1 (n := l.toNat + 1)
    (by have := l.isLt; omega) a c s (memoryCanonical_rising canonical) (Nat.lt_succ_of_le hk)
  have outside : SameOutside s u a (l.toNat + 1) := fun x hx => readByte_combineBytes_outside _ _ a c x s hx
  have changed : OnlyMem s u := onlyMem_combineBytes p.2.1 (l.toNat + 1) a c s
  have frame : Frame [] [] s u := frame_of_onlyMem [] [] changed
  cases boolean : p.2.2 with
  | false =>
    rw [boolean] at ran
    exact ⟨u, ran, bytes, outside, frame, changed.psw⟩
  | true =>
    rw [boolean] at ran
    refine ⟨_, ran.trans (finish_booleanField ..), bytes, outside, frame_setCc [] [] _ frame, ?_⟩
    rw [if_pos rfl, ← changed.psw]
    rfl

end Sys2Proof.Machine

/-! PACK, UNPK, MVO (spec/48_decimal_instructions.md R509 to R511) as bytes stored in turn from right to left (R86). -/

namespace Sys2Proof.Machine

/-! ## The value of each place, counted from the right, for a second operand at `a2` with length code `l2` -/

/-- A byte with its nibbles swapped. -/
def swapNibbles (b : Byte) : Byte := loNib b ++ hiNib b

/-- PACK (R510). -/
def packedByte (a2 : Addr) (l2 : Nat) : Nat → State → State → Byte
  | 0, _, u => swapNibbles (byteBelow u a2 (l2 + 1))
  | k + 1, _, u =>
    loNib (byteBelow u a2 (l2 + 1 - 2 * (k + 1))) ++ loNib (byteBelow u a2 (l2 + 1 - (2 * (k + 1) - 1)))

/-- UNPK (R511): a source byte is fetched for an odd place and gives the next place its left nibble. -/
def unpackedByte (a2 : Addr) (l2 : Nat) : Nat → State → State → Byte
  | 0, _, u => swapNibbles (byteBelow u a2 (l2 + 1))
  | k + 1, p, u =>
    if k % 2 = 0 then 0xF#4 ++ loNib (byteBelow u a2 (l2 + 1 - (k / 2 + 1)))
    else 0xF#4 ++ hiNib (byteBelow p a2 (l2 + 1 - (k / 2 + 1)))

theorem unpackedByte_odd (a2 : Addr) (l2 j : Nat) (p u : State) :
    unpackedByte a2 l2 (2 * j + 1) p u = 0xF#4 ++ loNib (byteBelow u a2 (l2 + 1 - (j + 1))) := by
  rw [unpackedByte, if_pos (by omega), show 2 * j / 2 = j by omega]

theorem unpackedByte_even (a2 : Addr) (l2 j : Nat) (p u : State) :
    unpackedByte a2 l2 (2 * j + 2) p u = 0xF#4 ++ hiNib (byteBelow p a2 (l2 + 1 - (j + 1))) := by
  rw [unpackedByte, if_neg (by omega), show (2 * j + 1) / 2 = j by omega]

/-- The nibble pending in MVO before place `k`: at first the sign kept at the right end, then the left nibble of the
source byte fetched last. -/
def pendingNibble (a2 : Addr) (l2 : Nat) (sign : BitVec 4) : Nat → State → BitVec 4
  | 0, _ => sign
  | k + 1, p => hiNib (byteBelow p a2 (l2 + 1 - k))

/-- MVO (R509). -/
def movedByte (a2 : Addr) (l2 : Nat) (sign : BitVec 4) (k : Nat) (p u : State) : Byte :=
  loNib (byteBelow u a2 (l2 + 1 - k)) ++ pendingNibble a2 l2 sign k p

/-! ## The loops of the model -/

section Loops

variable (a1 a2 : Addr) (l2 : Nat) (s : State)

/-- With `k + 1` places stored, the loop of PACK for the `i` places left stores those. -/
theorem packBytes_placesStored {m k i : Nat} (left : k + i = m) :
    packBytes a1 a2 i (l2 - 2 * k) (placesStored (placeFromRight a1 m) (packedByte a2 l2) s (k + 1)) =
      placesStored (placeFromRight a1 m) (packedByte a2 l2) s (m + 1) := by
  induction i generalizing k with
  | zero => rw [← left]; rfl
  | succ i ih =>
    rw [← ih (k := k + 1) (by omega), placesStored_succ _ _ _ (k + 1), packBytes, packedByte, placeFromRight,
      show m - (k + 1) = i by omega, show l2 - 2 * k - 2 = l2 - 2 * (k + 1) by omega,
      show l2 - 2 * k - 1 = l2 + 1 - 2 * (k + 1) by omega, show l2 + 1 - (2 * (k + 1) - 1) = l2 - 2 * k by omega]

/-- With `2 * j + 1` places stored, the loop of UNPK for the `i` places left stores those, two at a time. -/
theorem unpackBytes_placesStored {m j i : Nat} (left : 2 * j + i = m) :
    unpackBytes a1 a2 i (l2 - j) (placesStored (placeFromRight a1 m) (unpackedByte a2 l2) s (2 * j + 1)) =
      placesStored (placeFromRight a1 m) (unpackedByte a2 l2) s (m + 1) := by
  have fetched : l2 - j = l2 + 1 - (j + 1) := by omega
  induction i using Nat.twoStepInduction generalizing j with
  | zero => rw [← left]; rfl
  | one =>
    rw [← left, placesStored_succ _ _ _ (2 * j + 1), unpackBytes, unpackedByte_odd, placeFromRight, Nat.sub_self,
      offset_zero, fetched]
  | more i ih _ =>
    rw [← ih (j := j + 1) (by omega) (by omega), Nat.mul_succ, placesStored_succ _ _ _ (2 * j + 2),
      placesStored_succ _ _ _ (2 * j + 1), unpackedByte_odd, unpackedByte_even, unpackBytes, placeFromRight,
      placeFromRight, show m - (2 * j + 1) = i + 1 by omega, show m - (2 * j + 2) = i by omega, ← fetched]
    rfl

/-- With `k` places stored, the loop of MVO for the `i` places left stores those. -/
theorem moveOffset_placesStored (sign : BitVec 4) {m k i : Nat} (left : k + i = m + 1) :
    moveOffset a1 a2 i (l2 + 1 - k)
        (pendingNibble a2 l2 sign k (placesStored (placeFromRight a1 m) (movedByte a2 l2 sign) s (k - 1)))
        (placesStored (placeFromRight a1 m) (movedByte a2 l2 sign) s k) =
      placesStored (placeFromRight a1 m) (movedByte a2 l2 sign) s (m + 1) := by
  induction i generalizing k with
  | zero => rw [← left]; rfl
  | succ i ih =>
    rw [← ih (k := k + 1) (by omega), placesStored_succ _ _ _ k, moveOffset, placeFromRight,
      show m - k = i by omega, Nat.sub_sub]
    rfl

end Loops

section Execution

variable (l1 l2 b1 b2 : RegNum) (d1 d2 : Disp) (s : State)

theorem exec_pack : exec (.pack l1 l2 b1 d1 b2 d2) s = .next (placesStored (placeFromRight (ea s b1 d1) l1.toNat)
    (packedByte (ea s b2 d2) l2.toNat) s (l1.toNat + 1)) :=
  congrArg Host.Outcome.next (packBytes_placesStored (ea s b1 d1) (ea s b2 d2) l2.toNat s (Nat.zero_add _))

theorem exec_unpk : exec (.unpk l1 l2 b1 d1 b2 d2) s = .next (placesStored (placeFromRight (ea s b1 d1) l1.toNat)
    (unpackedByte (ea s b2 d2) l2.toNat) s (l1.toNat + 1)) :=
  congrArg Host.Outcome.next
    (unpackBytes_placesStored (ea s b1 d1) (ea s b2 d2) l2.toNat s (j := 0) (Nat.zero_add _))

theorem exec_mvo : exec (.mvo l1 l2 b1 d1 b2 d2) s = .next (placesStored (placeFromRight (ea s b1 d1) l1.toNat)
    (movedByte (ea s b2 d2) l2.toNat (loNib (readByte s (offset (ea s b1 d1) l1.toNat)))) s (l1.toNat + 1)) :=
  congrArg Host.Outcome.next (moveOffset_placesStored (ea s b1 d1) (ea s b2 d2) l2.toNat s _ (k := 0) (Nat.zero_add _))

end Execution

/-! ## What the statement says of them -/

/-- Source byte `j` from the right, read when `i` of the places have been stored. -/
theorem byteBelow_placesStored (place : Nat → Addr) (value : Nat → State → State → Byte) (s : State)
    {rank : Addr → Nat} {n : Nat} (hr : IsRank place rank n) {i : Nat} (hi : i ≤ n) (a : Addr) (l j : Nat) :
    byteBelow (placesStored place value s i) a (l + 1 - j) =
      if l < j then 0
      else if rank (offset a (l - j)) < i then readByte (placesStored place value s n) (offset a (l - j))
      else readByte s (offset a (l - j)) := by
  rw [byteBelow]
  by_cases beyond : l < j
  · rw [if_pos (by omega), if_pos beyond]
  · rw [if_neg (by omega), if_neg beyond, show l + 1 - j - 1 = l - j by omega, readByte_placesStored value s hr hi]

theorem sameOutside_placeFromRight (value : Nat → State → State → Byte) (s : State) (a : Addr) (m : Nat)
    (hm : m < 2 ^ 24) : SameOutside s (placesStored (placeFromRight a m) value s (m + 1)) a (m + 1) := by
  intro x hx
  have ranked := isRank_placeFromRight a m hm
  refine readByte_placesStored_outside value s ranked x (Nat.le_of_not_lt fun inside => ?_)
  have place := (ranked _ inside x).2 rfl
  rw [place, placeFromRight, offset_sub] at hx
  have := Nat.mod_le (m - (offset a m - x).toNat) (2 ^ 24)
  omega

/-- Settles O56: each of the three stores its places in turn, from right to left. -/
theorem packUnpackMove : Obligations.PackUnpackMove := by
  intro s l1 l2 b1 b2 d1 d2 canonical a1 a2 m dest source low high
  have hm : m < 2 ^ 24 := by have := l1.isLt; omega
  have ranked := isRank_placeFromRight a1 m hm
  let after (value : Nat → State → State → Byte) (i : Nat) : State := placesStored (placeFromRight a1 m) value s i
  have stored (value) {i : Nat} (hi : i ≤ m) :
      readByte (after value (m + 1)) (dest i) = value i (after value (i - 1)) (after value i) :=
    readByte_placesStored_place value s ranked (memoryCanonical_rising canonical) (Nat.lt_succ_of_le hi)
  have fetched (value) {i : Nat} (hi : i ≤ m) (j : Nat) :
      byteBelow (after value i) a2 (l2.toNat + 1 - j) = source (after value (m + 1)) i j :=
    byteBelow_placesStored _ value s ranked (by omega) a2 l2.toNat j
  have rest (value) : SameOutside s (after value (m + 1)) a1 (m + 1) ∧ (after value (m + 1)).psw = s.psw ∧
      Frame [] [] s (after value (m + 1)) := by
    have changed : OnlyMem s (after value (m + 1)) := onlyMem_placesStored _ value s (m + 1)
    exact ⟨sameOutside_placeFromRight value s a1 m hm, changed.psw, frame_of_onlyMem [] [] changed⟩
  refine ⟨⟨_, exec_pack .., ?_, ?_, rest _⟩, ⟨_, exec_unpk .., ?_, fun j hj => ?_, fun j hj => ?_, rest _⟩,
    ⟨_, exec_mvo .., ?_, ?_, rest _⟩⟩
  · exact (stored _ m.zero_le).trans (congrArg swapNibbles (fetched _ m.zero_le 0))
  · rintro (_ | k) one hk
    · omega
    · exact (stored _ hk).trans (congrArg₂ (fun x y => low x ++ low y) (fetched _ hk _) (fetched _ hk _))
  · exact (stored _ m.zero_le).trans (congrArg swapNibbles (fetched _ m.zero_le 0))
  · exact (stored _ hj).trans <| (unpackedByte_odd ..).trans (congrArg (0xF#4 ++ low ·) (fetched _ hj _))
  · exact (stored _ hj).trans <| (unpackedByte_even ..).trans
      (congrArg (0xF#4 ++ high ·) (fetched _ (Nat.le_of_succ_le hj) _))
  · exact (stored _ m.zero_le).trans (congrArg (low · ++ _) (fetched _ m.zero_le 0))
  · rintro (_ | k) one hk
    · omega
    · exact (stored _ hk).trans
        (congrArg₂ (fun x y => low x ++ high y) (fetched _ hk _) (fetched _ (Nat.le_of_succ_le hk) _))

end Sys2Proof.Machine

/-! The encoding (spec/30_encoding.md R100 to R112): the rows of the opcode map as a relation between instructions and
bytes. The encoder gives an instruction the bytes of its row, and the decoder reads the rows and nothing else. -/

namespace Sys2Proof

/-! ## The fields of the formats (R102 to R108) -/

@[simp] theorem hiNib_append (x y : BitVec 4) : hiNib (x ++ y) = x := BitVec.extractLsb'_append_eq_left

@[simp] theorem loNib_append (x y : BitVec 4) : loNib (x ++ y) = y := BitVec.extractLsb'_append_eq_right

@[simp] theorem hiNib_append_loNib (b : Byte) : hiNib b ++ loNib b = b :=
  (BitVec.extractLsb'_append_extractLsb'_eq_extractLsb' rfl).trans BitVec.extractLsb'_eq_self

@[simp] theorem dispOf_baseDisp (b : RegNum) (d : Disp) : dispOf (b ++ d.extractLsb' 8 4) (d.extractLsb' 0 8) = d := by
  rw [dispOf, loNib_append]
  exact (BitVec.extractLsb'_append_extractLsb'_eq_extractLsb' rfl).trans BitVec.extractLsb'_eq_self

/-- A base register number and a displacement read from two bytes are written as those bytes. -/
@[simp] theorem baseDisp_dispOf (b c : Byte) : baseDisp (hiNib b) (dispOf b c) = [b, c] := by
  have high : (dispOf b c).extractLsb' 8 4 = loNib b := BitVec.extractLsb'_append_eq_left
  have low : (dispOf b c).extractLsb' 0 8 = c := BitVec.extractLsb'_append_eq_right
  rw [baseDisp, high, low, hiNib_append_loNib]

/-- The two parts of the second byte of an I/O instruction (R119, mask FF01). -/
@[simp] theorem unit_append_bit (b : Byte) : b.extractLsb' 1 7 ++ b.extractLsb' 0 1 = b :=
  (BitVec.extractLsb'_append_extractLsb'_eq_extractLsb' rfl).trans BitVec.extractLsb'_eq_self

theorem toNat_bit (b : Byte) : (b.extractLsb' 0 1).toNat = b.toNat % 2 := by
  simp [BitVec.extractLsb'_toNat]

@[simp] theorem toNat_unit_append_mod (u : BitVec 7) (c : BitVec 1) : (u ++ c).toNat % 2 = c.toNat := by
  rw [← toNat_bit]
  exact congrArg BitVec.toNat BitVec.extractLsb'_append_eq_right

@[simp] theorem unit_append (u : BitVec 7) (c : BitVec 1) : (u ++ c).extractLsb' 1 7 = u :=
  BitVec.extractLsb'_append_eq_left

/-! ## The rows (R111) -/

/-- The instruction is the one of a row of the opcode map, and the bytes are its encoding by the format of that row: one
case for each table of the decoder. -/
inductive IsRow : Instr → List Byte → Prop
  | rr {op : Byte} {mk} (row : rrRows.lookup op.toNat = some mk) (hi lo : RegNum) :
      IsRow (mk hi lo) [op, hi ++ lo]
  | rx {op : Byte} {mk} (row : rxRows.lookup op.toNat = some mk) (hi lo b : RegNum) (d : Disp) :
      IsRow (mk hi lo b d) (op :: (hi ++ lo) :: baseDisp b d)
  | rs {op : Byte} {mk} (row : rsRows.lookup op.toNat = some mk) (hi lo b : RegNum) (d : Disp) :
      IsRow (mk hi lo b d) (op :: (hi ++ lo) :: baseDisp b d)
  | si {op : Byte} {mk} (row : siRows.lookup op.toNat = some mk) (i : Byte) (b : RegNum) (d : Disp) :
      IsRow (mk i b d) (op :: i :: baseDisp b d)
  | io {op : Byte} {bit : BitVec 1} {mk} (row : ioRows.lookup (op.toNat, bit.toNat) = some mk) (u : BitVec 7)
      (b : RegNum) (d : Disp) : IsRow (mk u b d) (op :: (u ++ bit) :: baseDisp b d)
  | b2 {op : Byte} {mk} (row : b2Rows.lookup op.toNat = some mk) (b : RegNum) (d : Disp) :
      IsRow (mk b d) (0xB2 :: op :: baseDisp b d)
  | ss1 {op : Byte} {mk} (row : ss1Rows.lookup op.toNat = some mk) (l : Byte) (b1 : RegNum) (d1 : Disp) (b2 : RegNum)
      (d2 : Disp) : IsRow (mk l b1 d1 b2 d2) (op :: l :: (baseDisp b1 d1 ++ baseDisp b2 d2))
  | ss2 {op : Byte} {mk} (row : ss2Rows.lookup op.toNat = some mk) (hi lo b1 : RegNum) (d1 : Disp) (b2 : RegNum)
      (d2 : Disp) : IsRow (mk hi lo b1 d1 b2 d2) (op :: (hi ++ lo) :: (baseDisp b1 d1 ++ baseDisp b2 d2))

/-- SVC's immediate is both nibbles of the second byte (R102). -/
theorem isRow_svc (i : Byte) : IsRow (.svc i) [0x0A, i] := by
  have row : IsRow (.svc (hiNib i ++ loNib i)) [0x0A, hiNib i ++ loNib i] :=
    .rr (mk := fun hi lo => .svc (hi ++ lo)) rfl (hiNib i) (loNib i)
  rwa [hiNib_append_loNib] at row

/-- Every instruction has a row, by its format. -/
theorem isRow_encode (i : Instr) : IsRow i (encode i) := by
  cases i with
  | svc i => exact isRow_svc i
  | spm | balr | bctr | bcr | ssk | isk | basr | mvcl | clcl | lpr | lnr | ltr | lcr | nr | clr | or | xr | lr | cr
  | ar | sr | mr | dr | alr | slr | lpdr | lndr | ltdr | lcdr | hdr | ldr | cdr | adr | sdr | mdr | ddr | awr | swr
  | lper | lner | lter | lcer | her | lrer | ler | cer | aer | ser | mer | der | aur | sur => exact .rr rfl _ _
  | sth | la | stc | ic | ex | bal | bct | bc | lh | ch | ah | sh | mh | bas | cvd | cvb | st | n | cl | o | x | l | c
  | a | s | m | d | al | sl | std | ld | cd | ad | sd | md | dd | aw | sw | ste | le | ce | ae | se | me | de | au
  | su => exact .rx rfl _ _ _ _
  | diag | bxh | bxle | srl | sll | sra | sla | srdl | sldl | srda | slda | stm | lm | stctl | lctl | cs | cds | clm
  | stcm | icm => exact .rs rfl _ _ _ _
  | ssm | lpsw | tm | mvi | ts | ni | cli | oi | xi | stnsm | stosm => exact .si rfl _ _ _
  | sio | siof | tio | hio | hdv | tch => exact .io rfl _ _ _
  | stck | sckc | stckc | ptlb | spx | stpx | stap => exact .b2 rfl _ _
  | mvn | mvc | mvz | nc | clc | oc | xc | tr | trt | ed | edmk => exact .ss1 rfl _ _ _ _ _
  | srp | mvo | pack | unpk | zap | cp | ap | sp | mp | dp => exact .ss2 rfl _ _ _ _ _ _

/-! ## What the tables encode to -/

theorem mem_of_lookup_eq_some {α β : Type} [BEq α] [LawfulBEq α] {l : List (α × β)} {k : α} {v : β}
    (h : l.lookup k = some v) : (k, v) ∈ l := by
  obtain ⟨before, after, rfl, -⟩ := List.lookup_eq_some_iff.1 h
  simp

theorem rrRows_encode : ∀ p ∈ rrRows, ∀ hi lo, encode (p.2 hi lo) = [BitVec.ofNat 8 p.1, hi ++ lo] := by
  rw [← List.forall_iff_forall_mem]
  and_intros <;> exact fun _ _ => rfl

theorem rxRows_encode : ∀ p ∈ rxRows, ∀ hi lo b d,
    encode (p.2 hi lo b d) = BitVec.ofNat 8 p.1 :: (hi ++ lo) :: baseDisp b d := by
  rw [← List.forall_iff_forall_mem]
  and_intros <;> exact fun _ _ _ _ => rfl

theorem rsRows_encode : ∀ p ∈ rsRows, ∀ hi lo b d,
    encode (p.2 hi lo b d) = BitVec.ofNat 8 p.1 :: (hi ++ lo) :: baseDisp b d := by
  rw [← List.forall_iff_forall_mem]
  and_intros <;> exact fun _ _ _ _ => rfl

theorem siRows_encode : ∀ p ∈ siRows, ∀ i b d, encode (p.2 i b d) = BitVec.ofNat 8 p.1 :: i :: baseDisp b d := by
  rw [← List.forall_iff_forall_mem]
  and_intros <;> exact fun _ _ _ => rfl

theorem ioRows_encode : ∀ p ∈ ioRows, ∀ u b d,
    encode (p.2 u b d) = BitVec.ofNat 8 p.1.1 :: (u ++ BitVec.ofNat 1 p.1.2) :: baseDisp b d := by
  rw [← List.forall_iff_forall_mem]
  and_intros <;> exact fun _ _ _ => rfl

theorem b2Rows_encode : ∀ p ∈ b2Rows, ∀ b d, encode (p.2 b d) = 0xB2 :: BitVec.ofNat 8 p.1 :: baseDisp b d := by
  rw [← List.forall_iff_forall_mem]
  and_intros <;> exact fun _ _ => rfl

theorem ss1Rows_encode : ∀ p ∈ ss1Rows, ∀ l b1 d1 b2 d2,
    encode (p.2 l b1 d1 b2 d2) = BitVec.ofNat 8 p.1 :: l :: (baseDisp b1 d1 ++ baseDisp b2 d2) := by
  rw [← List.forall_iff_forall_mem]
  and_intros <;> exact fun _ _ _ _ _ => rfl

theorem ss2Rows_encode : ∀ p ∈ ss2Rows, ∀ hi lo b1 d1 b2 d2,
    encode (p.2 hi lo b1 d1 b2 d2) = BitVec.ofNat 8 p.1 :: (hi ++ lo) :: (baseDisp b1 d1 ++ baseDisp b2 d2) := by
  rw [← List.forall_iff_forall_mem]
  and_intros <;> exact fun _ _ _ _ _ _ => rfl

/-- The bytes of a row are the encoding of its instruction. -/
theorem IsRow.encode_eq {i : Instr} {own : List Byte} (h : IsRow i own) : encode i = own := by
  cases h with
  | rr row hi lo => simpa using rrRows_encode _ (mem_of_lookup_eq_some row) hi lo
  | rx row hi lo b d => simpa using rxRows_encode _ (mem_of_lookup_eq_some row) hi lo b d
  | rs row hi lo b d => simpa using rsRows_encode _ (mem_of_lookup_eq_some row) hi lo b d
  | si row i b d => simpa using siRows_encode _ (mem_of_lookup_eq_some row) i b d
  | io row u b d => simpa using ioRows_encode _ (mem_of_lookup_eq_some row) u b d
  | b2 row b d => simpa using b2Rows_encode _ (mem_of_lookup_eq_some row) b d
  | ss1 row l b1 d1 b2 d2 => simpa using ss1Rows_encode _ (mem_of_lookup_eq_some row) l b1 d1 b2 d2
  | ss2 row hi lo b1 d1 b2 d2 => simpa using ss2Rows_encode _ (mem_of_lookup_eq_some row) hi lo b1 d1 b2 d2

/-! ## What the decoder answers (R110) -/

theorem decode_two {op : Byte} (short : op.toNat < 0x40) (b1 : Byte) (rest : List Byte) :
    decode (op :: b1 :: rest) = rowOr op rest (decode2 op b1) := by
  simp only [decode, if_pos short]

theorem decode_four {op : Byte} (notShort : ¬ op.toNat < 0x40) (notLong : op.toNat < 0xC0) (b1 b2 b3 : Byte)
    (rest : List Byte) : decode (op :: b1 :: b2 :: b3 :: rest) = rowOr op rest (decode4 op b1 b2 b3) := by
  simp only [decode, if_neg notShort, if_pos notLong]

theorem decode_six {op : Byte} (long : ¬ op.toNat < 0xC0) (b1 b2 b3 b4 b5 : Byte) (rest : List Byte) :
    decode (op :: b1 :: b2 :: b3 :: b4 :: b5 :: rest) = rowOr op rest (decode6 op b1 b2 b3 b4 b5) := by
  have notShort : ¬ op.toNat < 0x40 := by omega
  simp only [decode, if_neg notShort, if_neg long]

/-- No earlier table has the first byte B2: the second one alone selects the row (R106). -/
theorem decode4_b2 (op b2 b3 : Byte) :
    decode4 0xB2 op b2 b3 = (b2Rows.lookup op.toNat).map fun mk => mk (hiNib b2) (dispOf b2 b3) := rfl

@[simp] theorem rowOr_some (op : Byte) (rest : List Byte) (i : Instr) : rowOr op rest (some i) = .ok (i, rest) := rfl

theorem rowOr_eq_ok {op : Byte} {rest tail : List Byte} {row : Option Instr} {i : Instr}
    (h : rowOr op rest row = .ok (i, tail)) : row = some i ∧ rest = tail := by
  cases row with
  | none => cases h
  | some j => cases h; exact ⟨rfl, rfl⟩

theorem isRow_of_decode2 {op b1 : Byte} {i : Instr} (h : decode2 op b1 = some i) : IsRow i [op, b1] := by
  obtain ⟨mk, row, rfl⟩ := Option.map_eq_some_iff.1 h
  simpa using IsRow.rr row (hiNib b1) (loNib b1)

theorem isRow_of_decode4 {op b1 b2 b3 : Byte} {i : Instr} (h : decode4 op b1 b2 b3 = some i) :
    IsRow i [op, b1, b2, b3] := by
  unfold decode4 at h
  split at h
  · next mk row => cases h; simpa using IsRow.rx row (hiNib b1) (loNib b1) (hiNib b2) (dispOf b2 b3)
  split at h
  · next mk row => cases h; simpa using IsRow.rs row (hiNib b1) (loNib b1) (hiNib b2) (dispOf b2 b3)
  split at h
  · next mk row => cases h; simpa using IsRow.si row b1 (hiNib b2) (dispOf b2 b3)
  split at h
  · next mk row =>
    rw [← toNat_bit] at row
    cases h
    simpa using IsRow.io row (b1.extractLsb' 1 7) (hiNib b2) (dispOf b2 b3)
  split at h
  · next first =>
    obtain ⟨mk, row, rfl⟩ := Option.map_eq_some_iff.1 h
    simpa [first] using IsRow.b2 row (hiNib b2) (dispOf b2 b3)
  · cases h

theorem isRow_of_decode6 {op b1 b2 b3 b4 b5 : Byte} {i : Instr} (h : decode6 op b1 b2 b3 b4 b5 = some i) :
    IsRow i [op, b1, b2, b3, b4, b5] := by
  unfold decode6 at h
  split at h
  · next mk row => cases h; simpa using IsRow.ss1 row b1 (hiNib b2) (dispOf b2 b3) (hiNib b4) (dispOf b4 b5)
  · obtain ⟨mk, row, rfl⟩ := Option.map_eq_some_iff.1 h
    simpa using IsRow.ss2 row (hiNib b1) (loNib b1) (hiNib b2) (dispOf b2 b3) (hiNib b4) (dispOf b4 b5)

/-- What the decoder reads has a row, and stands at the head of the bytes. -/
theorem isRow_of_decode {bs rest : List Byte} {i : Instr} (h : decode bs = .ok (i, rest)) :
    ∃ own, IsRow i own ∧ bs = own ++ rest := by
  unfold decode at h
  split at h
  · next b0 b1 tail =>
    split at h
    · obtain ⟨row, rfl⟩ := rowOr_eq_ok h
      exact ⟨_, isRow_of_decode2 row, rfl⟩
    split at h
    · next b2 b3 tail =>
      split at h
      · obtain ⟨row, rfl⟩ := rowOr_eq_ok h
        exact ⟨_, isRow_of_decode4 row, rfl⟩
      split at h
      · obtain ⟨row, rfl⟩ := rowOr_eq_ok h
        exact ⟨_, isRow_of_decode6 row, rfl⟩
      · cases h
    · cases h
  · cases h

/-- Settles O2: what the decoder reads has a row, and a row's bytes are the encoding of its instruction. -/
theorem encodeInvertsDecode : Obligations.EncodeInvertsDecode := by
  intro bs rest i h
  obtain ⟨own, row, rfl⟩ := isRow_of_decode h
  rw [row.encode_eq]

/-! ## The decoder finds every row

An opcode of a later table is in no earlier one, and each table's opcodes have the length of its format (R100). -/

theorem rrRows_opcodes : ∀ p ∈ rrRows, p.1 < 0x40 := by decide

theorem rxRows_opcodes : ∀ p ∈ rxRows, ¬ p.1 < 0x40 ∧ p.1 < 0xC0 := by decide

theorem rsRows_opcodes : ∀ p ∈ rsRows, ¬ p.1 < 0x40 ∧ p.1 < 0xC0 ∧ rxRows.lookup p.1 = none := by decide

theorem siRows_opcodes : ∀ p ∈ siRows,
    ¬ p.1 < 0x40 ∧ p.1 < 0xC0 ∧ rxRows.lookup p.1 = none ∧ rsRows.lookup p.1 = none := by decide

theorem ioRows_opcodes : ∀ p ∈ ioRows, ¬ p.1.1 < 0x40 ∧ p.1.1 < 0xC0 ∧ rxRows.lookup p.1.1 = none ∧
    rsRows.lookup p.1.1 = none ∧ siRows.lookup p.1.1 = none := by decide

theorem ss1Rows_opcodes : ∀ p ∈ ss1Rows, ¬ p.1 < 0xC0 := by decide

theorem ss2Rows_opcodes : ∀ p ∈ ss2Rows, ¬ p.1 < 0xC0 ∧ ss1Rows.lookup p.1 = none := by decide

/-- The decoder reads a row from its bytes, whatever follows them. -/
theorem IsRow.decode_eq {i : Instr} {own : List Byte} (h : IsRow i own) (rest : List Byte) :
    decode (own ++ rest) = .ok (i, rest) := by
  cases h with
  | rr row hi lo =>
    have short := rrRows_opcodes _ (mem_of_lookup_eq_some row)
    refine (decode_two short ..).trans ?_
    simp [decode2, row]
  | rx row hi lo b d =>
    obtain ⟨notShort, notLong⟩ := rxRows_opcodes _ (mem_of_lookup_eq_some row)
    refine (decode_four notShort notLong ..).trans ?_
    simp [decode4, row]
  | rs row hi lo b d =>
    obtain ⟨notShort, notLong, noRx⟩ := rsRows_opcodes _ (mem_of_lookup_eq_some row)
    refine (decode_four notShort notLong ..).trans ?_
    simp [decode4, row, noRx]
  | si row i b d =>
    obtain ⟨notShort, notLong, noRx, noRs⟩ := siRows_opcodes _ (mem_of_lookup_eq_some row)
    refine (decode_four notShort notLong ..).trans ?_
    simp [decode4, row, noRx, noRs]
  | io row u b d =>
    obtain ⟨notShort, notLong, noRx, noRs, noSi⟩ := ioRows_opcodes _ (mem_of_lookup_eq_some row)
    refine (decode_four notShort notLong ..).trans ?_
    simp [decode4, row, noRx, noRs, noSi]
  | b2 row b d =>
    refine (decode_four (op := 0xB2) (by decide) (by decide) ..).trans ?_
    rw [decode4_b2]
    simp [row]
  | ss1 row l b1 d1 b2 d2 =>
    have long := ss1Rows_opcodes _ (mem_of_lookup_eq_some row)
    refine (decode_six long ..).trans ?_
    simp [decode6, row]
  | ss2 row hi lo b1 d1 b2 d2 =>
    obtain ⟨long, noSs1⟩ := ss2Rows_opcodes _ (mem_of_lookup_eq_some row)
    refine (decode_six long ..).trans ?_
    simp [decode6, row, noSs1]

/-- Settles O1: every instruction has a row, and the decoder reads it from its bytes. -/
theorem decodeInvertsEncode : Obligations.DecodeInvertsEncode := fun i rest => (isRow_encode i).decode_eq rest

/-- Settles O3: each word is the encoding of its instruction. -/
theorem sampleWordsDecode : Obligations.SampleWordsDecode :=
  have read (i : Instr) : decode (encode i ++ []) = .ok (i, []) := decodeInvertsEncode i []
  ⟨read (.lr 1 2), read (.a 1 0 1 0), read (.ex 1 0 0 0x200), read (.stm 14 12 13 12), read (.mvc 3 1 1 1 0),
    read (.zap 1 2 1 0 2 0), read (.lpsw 0 0 0x100), read (.siof 0 0 0x00C), read (.svc 3)⟩

end Sys2Proof

/-! Encodings with no row (spec/30_encoding.md R112), as the loop and EX hand them off (spec/40_decode_execute.md R148),
and the targets of EX (R152, R153). -/

namespace Sys2Proof.Machine

/-! ## Fetched bytes -/

theorem fetch_eq (s : State) (a : Addr) :
    fetch s a = readByte s a :: readByte s (a + 1) :: readField s (a + 2) 4 := by
  simp [fetch, readField, BitVec.add_assoc]

theorem readField_four (s : State) (a : Addr) :
    readField s (a + 2) 4 = readByte s (a + 2) :: readByte s (a + 3) :: readField s (a + 4) 2 := by
  simp [readField, BitVec.add_assoc]

/-! ## The hand-off of an encoding with no row -/

/-- The other hand-off opcodes have rows, so that the kind of an encoding with no row is decided by the I/O opcodes and
B2 alone (R112). -/
theorem handoffKind_of_noRow {b0 b1 b2 b3 : Byte} {rest : List Byte} {e : Reject}
    (noRow : decode (b0 :: b1 :: b2 :: b3 :: rest) = .error e) :
    handoffKind b0 b1 =
      if b0 = 0x9C ∨ b0 = 0x9D ∨ b0 = 0x9E ∨ b0 = 0x9F then .io else if b0 = 0xB2 then .priv else .unknown := by
  have notDiag : b0 ≠ 0x83 := by rintro rfl; cases noRow
  have notStctl : b0 ≠ 0xB6 := by rintro rfl; cases noRow
  have notLctl : b0 ≠ 0xB7 := by rintro rfl; cases noRow
  have notStck : b0 = 0xB2 → b1 ≠ 0x05 := by rintro rfl rfl; cases noRow
  have io : (0x9C ≤ b0.toNat ∧ b0.toNat ≤ 0x9F) ↔ b0 = 0x9C ∨ b0 = 0x9D ∨ b0 = 0x9E ∨ b0 = 0x9F := by bv_omega
  have priv : (b0 = 0xB6 ∨ b0 = 0xB7 ∨ (b0 = 0xB2 ∧ b1 ≠ 0x05)) ↔ b0 = 0xB2 := by tauto
  simp only [handoffKind, notDiag, io, priv, if_false]

/-- What the call returns for an encoding with no row, by its first two bytes (R112, R148). -/
def noRowResult (b0 b1 : Byte) : ExecResult :=
  if b0 = 0x9C ∨ b0 = 0x9D ∨ b0 = 0x9E ∨ b0 = 0x9F then .sentinel .io (0#16 ++ b0 ++ b1)
  else if b0 = 0xB2 then .sentinel .priv (0#16 ++ b0 ++ b1)
  else .unknownInstruction

theorem setWidth_append_eq (b0 b1 : Byte) : (b0 ++ b1).setWidth 32 = 0#16 ++ b0 ++ b1 := by
  have bound : (b0 ++ b1).toNat < 2 ^ 32 := (b0 ++ b1).isLt.trans (by decide)
  apply BitVec.eq_of_toNat_eq
  rw [BitVec.toNat_setWidth, Nat.mod_eq_of_lt bound, BitVec.toNat_append, BitVec.toNat_append, BitVec.toNat_append]
  simp

theorem handoffResult_of_noRow {b0 b1 b2 b3 : Byte} {rest : List Byte} {e : Reject}
    (noRow : decode (b0 :: b1 :: b2 :: b3 :: rest) = .error e) : handoffResult b0 b1 b2 b3 = noRowResult b0 b1 := by
  rw [handoffResult, handoffKind_of_noRow noRow, setWidth_append_eq, noRowResult]
  split_ifs <;> rfl

theorem instrStep_of_noRow (s : State) {e : Reject} (even : s.psw.pc.getLsbD 0 = false)
    (noRow : decode (fetch s s.psw.pc) = .error e) :
    instrStep s =
      .next (handOffBytes (advance s (instrLength (readByte s s.psw.pc))) (fetch s s.psw.pc)) := by
  simp only [instrStep, even, noRow]
  rfl

/-- Settles O12: a step that runs, with the hand-off of the bytes it fetched on the advanced state. -/
theorem noRowIsHandedOff : Obligations.NoRowIsHandedOff := by
  intro s e b b0 b1 b2 b3 n on loaded runs even noRow
  have bytes : fetch b b.psw.pc = b0 :: b1 :: b2 :: b3 :: readField b (b.psw.pc + 4) 2 := by
    rw [fetch_eq, readField_four]
  have fetched : decode (fetch b b.psw.pc) = .error e := noRow
  have result : handoffResult b0 b1 b2 b3 = noRowResult b0 b1 := handoffResult_of_noRow (bytes ▸ fetched)
  rw [step_of_running s on loaded runs, instrStep_of_noRow b even fetched, bytes, handOffBytes_cons, handOff, result]
  rfl

/-! ## EX -/

/-- Every target answers a next state: each arm post-processes a result or hands off. -/
theorem runTarget_next (i : Instr) (s : State) : ∃ t, runTarget i s = .next t := by
  cases i <;> exact ⟨_, rfl⟩

theorem orSecond_zero (bs : List Byte) : orSecond 0 bs = bs := by
  unfold orSecond
  split
  · exact congrArg (_ :: · :: _) BitVec.or_zero
  · rfl

theorem exec_ex (r1 x2 b2 : RegNum) (d2 : Disp) (s : State) : exec (.ex r1 x2 b2 d2) s = execEx r1 x2 b2 d2 s := rfl

theorem traps_ex_of_nested (s : State) (r1 x2 b2 : RegNum) (d2 : Disp) (nested : s.exTarget = true) :
    Traps (.ex r1 x2 b2 d2) s .execute :=
  traps_of (fun _ => rfl) (by simp only [exec_ex, execEx, nested, if_true])

theorem traps_ex_of_odd (s : State) (r1 x2 b2 : RegNum) (d2 : Disp) (off : s.exTarget = false)
    (odd : (eax s x2 b2 d2).getLsbD 0 = true) : Traps (.ex r1 x2 b2 d2) s .specification :=
  traps_of (fun _ => rfl) (by simp only [exec_ex, execEx, off, odd, Bool.false_eq_true, if_true, if_false])

theorem traps_ex_of_ex (s : State) (r1 x2 b2 : RegNum) (d2 : Disp) (off : s.exTarget = false)
    (even : (eax s x2 b2 d2).getLsbD 0 = false) (isEx : readByte s (eax s x2 b2 d2) = 0x44) :
    Traps (.ex r1 x2 b2 d2) s .execute :=
  traps_of (fun _ => rfl) (by simp only [exec_ex, execEx, off, even, isEx, Bool.false_eq_true, if_true, if_false])

/-- What EX executes where it does not trap: the bytes at the address, the second one OR-ed (R152). -/
theorem exec_ex_of_target (s : State) (r1 x2 b2 : RegNum) (d2 : Disp) (off : s.exTarget = false)
    (even : (eax s x2 b2 d2).getLsbD 0 = false) (notEx : readByte s (eax s x2 b2 d2) ≠ 0x44) :
    exec (.ex r1 x2 b2 d2) s =
      executeTarget (orSecond (if r1 = 0 then 0 else (getReg s r1).extractLsb' 0 8) (fetch s (eax s x2 b2 d2))) s := by
  simp only [exec_ex, execEx, off, even, notEx, Bool.false_eq_true, if_false]
  split
  · rw [orSecond_zero]
  · rfl

theorem executeTarget_of_row {bs rest : List Byte} {i : Instr} (s : State) (row : decode bs = .ok (i, rest))
    (notEx : ∀ r1 x2 b2 d2, i ≠ .ex r1 x2 b2 d2) :
    ∃ t, exec i { s with exTarget := true } = .next t ∧ executeTarget bs s = .next { t with exTarget := false } := by
  obtain ⟨t, run⟩ := runTarget_next i { s with exTarget := true }
  refine ⟨t, by rw [← runTarget_eq_exec i _ notEx, run], ?_⟩
  simp only [executeTarget, row, run, endTarget]

theorem executeTarget_of_noRow {bs : List Byte} {e : Reject} (s : State) (noRow : decode bs = .error e) :
    executeTarget bs s = .next (handOffBytes s bs) := by
  simp only [executeTarget, noRow]

/-- Settles O44: a target that decodes to EX would begin with EX's opcode, since its bytes are EX's encoding; every other
target runs as the instruction does (`runTarget_eq_exec`), and one with no row is handed off as the loop does it. -/
theorem executeRunsTarget : Obligations.ExecuteRunsTarget := by
  intro s r1 x2 b2 d2 a or T
  have target (off : s.exTarget = false) (even : a.getLsbD 0 = false) (notEx : readByte s a ≠ 0x44) :
      exec (.ex r1 x2 b2 d2) s = executeTarget T s := by
    rw [exec_ex_of_target s r1 x2 b2 d2 off even notEx, fetch_eq]
    rfl
  refine ⟨fun i rest off even notEx row => ?_, fun e off even notEx noRow => ?_, fun nested => ?_, fun off odd => ?_,
    fun off even isEx => ?_⟩
  · rw [target off even notEx]
    refine executeTarget_of_row s row ?_
    rintro r1 x2 b2 d2 rfl
    have own : T = encode (.ex r1 x2 b2 d2) ++ rest := encodeInvertsDecode _ _ _ row
    exact notEx (List.cons.inj own).1
  · have bytes : T = readByte s a :: (readByte s (a + 1) ||| or) :: readByte s (a + 2) :: readByte s (a + 3) ::
        readField s (a + 4) 2 := congrArg (_ :: _ :: ·) (readField_four s a)
    have result := handoffResult_of_noRow (bytes ▸ noRow)
    rw [target off even notEx, executeTarget_of_noRow s noRow, bytes, handOffBytes_cons, handOff, result]
    rfl
  · exact traps_ex_of_nested s r1 x2 b2 d2 nested
  · exact traps_ex_of_odd s r1 x2 b2 d2 off odd
  · exact traps_ex_of_ex s r1 x2 b2 d2 off even isEx

end Sys2Proof.Machine

/-! What a step and a call of `execute` run (spec/40_decode_execute.md R141 to R147): the instruction decoded at `pc`, on
the state advanced past it; that every instruction and every step answers a next state; the rule for an instruction's
result (R146). -/

namespace Sys2Proof.Machine

/-! ## The length of an encoding (R100) -/

/-- The first byte of a row tells how many bytes the row has, whatever table it stands in. -/
theorem length_of_isRow {i : Instr} {own : List Byte} (h : IsRow i own) : own.length = instrLength (own.headD 0) := by
  have short {op : Byte} (lt : op.toNat < 0x40) : 2 = instrLength op := (if_pos lt).symm
  have middle {op : Byte} (notShort : ¬op.toNat < 0x40) (notLong : op.toNat < 0xC0) : 4 = instrLength op := by
    rw [instrLength, if_neg notShort, if_pos notLong]
  have long {op : Byte} (ge : ¬op.toNat < 0xC0) : 6 = instrLength op := by
    rw [instrLength, if_neg (by omega), if_neg ge]
  cases h with
  | rr row => exact short (rrRows_opcodes _ (mem_of_lookup_eq_some row))
  | rx row =>
    obtain ⟨notShort, notLong⟩ := rxRows_opcodes _ (mem_of_lookup_eq_some row)
    exact middle notShort notLong
  | rs row =>
    obtain ⟨notShort, notLong, -⟩ := rsRows_opcodes _ (mem_of_lookup_eq_some row)
    exact middle notShort notLong
  | si row =>
    obtain ⟨notShort, notLong, -⟩ := siRows_opcodes _ (mem_of_lookup_eq_some row)
    exact middle notShort notLong
  | io row =>
    obtain ⟨notShort, notLong, -⟩ := ioRows_opcodes _ (mem_of_lookup_eq_some row)
    exact middle notShort notLong
  | b2 => rfl
  | ss1 row => exact long (ss1Rows_opcodes _ (mem_of_lookup_eq_some row))
  | ss2 row =>
    obtain ⟨ge, -⟩ := ss2Rows_opcodes _ (mem_of_lookup_eq_some row)
    exact long ge

/-- Bytes that decode begin with the byte that tells the length of the instruction read. -/
theorem instrLength_of_decode {bs rest : List Byte} {i : Instr} (row : decode bs = .ok (i, rest)) :
    instrLength (bs.headD 0) = (encode i).length := by
  obtain ⟨own, isRow, rfl⟩ := isRow_of_decode row
  have head : (own ++ rest).headD 0 = own.headD 0 := by cases isRow <;> rfl
  rw [head, ← length_of_isRow isRow, isRow.encode_eq]

/-! ## Every instruction and every step answers a next state -/

theorem executeTarget_next (bs : List Byte) (s : State) : ∃ t, executeTarget bs s = .next t := by
  cases row : decode bs with
  | error e => exact ⟨_, executeTarget_of_noRow s row⟩
  | ok p =>
    obtain ⟨t, run⟩ := runTarget_next p.1 { s with exTarget := true }
    exact ⟨{ t with exTarget := false }, by simp only [executeTarget, row, run, endTarget]⟩

/-- EX traps, or executes its target. -/
theorem execEx_next (r1 x2 b2 : RegNum) (d2 : Disp) (s : State) : ∃ t, execEx r1 x2 b2 d2 s = .next t := by
  unfold execEx
  dsimp only
  split_ifs
  · exact ⟨_, rfl⟩
  · exact ⟨_, rfl⟩
  · exact ⟨_, rfl⟩
  · exact executeTarget_next _ s
  · exact executeTarget_next _ s

/-- EX apart, an instruction does what it does as a target (`runTarget_eq_exec`). -/
theorem exec_next (i : Instr) (s : State) : ∃ t, exec i s = .next t := by
  by_cases isEx : ∃ r1 x2 b2 d2, i = .ex r1 x2 b2 d2
  · obtain ⟨r1, x2, b2, d2, rfl⟩ := isEx
    exact execEx_next r1 x2 b2 d2 s
  · rw [← runTarget_eq_exec i s fun r1 x2 b2 d2 h => isEx ⟨r1, x2, b2, d2, h⟩]
    exact runTarget_next i s

/-- An even `pc` at which an instruction decodes: the instruction runs on the advanced state (R143, R144). -/
theorem instrStep_of_row (s : State) {i : Instr} {rest : List Byte} (even : s.psw.pc.getLsbD 0 = false)
    (row : decode (fetch s s.psw.pc) = .ok (i, rest)) : instrStep s = exec i (advance s (encode i).length) := by
  simp only [instrStep, even, row, instrLength_of_decode row, Bool.false_eq_true, if_false]

theorem instrStep_next (s : State) : ∃ t, instrStep s = .next t := by
  by_cases odd : s.psw.pc.getLsbD 0 = true
  · exact ⟨_, instrStep_of_odd s odd⟩
  · have even : s.psw.pc.getLsbD 0 = false := Bool.eq_false_of_not_eq_true odd
    cases row : decode (fetch s s.psw.pc) with
    | error e => exact ⟨_, instrStep_of_noRow s even row⟩
    | ok p =>
      rw [instrStep_of_row s even row]
      exact exec_next _ _

theorem step_next (s : State) : ∃ t, step s = .next t := by
  rcases iteration_cases s with ⟨-, run⟩ | ⟨-, -, run⟩ | ⟨-, -, -, run⟩ | ⟨-, -, -, run⟩
  · exact ⟨_, run⟩
  · exact ⟨_, run⟩
  · exact ⟨_, run⟩
  · obtain ⟨t, answer⟩ := instrStep_next (boundaryCheck (setResult s .budget))
    exact ⟨_, run.trans (congrArg countStep answer)⟩

/-- Settles O9: a step ends at the halt poll, at the boundary check, at the wait test, or with what its instruction, trap
or hand-off answers. -/
theorem everyStepAnswersNext : Obligations.EveryStepAnswersNext := ⟨step_next, exec_next⟩

/-- Settles O10: a step that runs is its instruction step, counted; the state `u` of the claim is the advanced one. -/
theorem stepRunsDecodedInstruction : Obligations.StepRunsDecodedInstruction := by
  intro s i rest b on loaded runs even row n u
  obtain ⟨t, answer⟩ := exec_next i u
  have run : instrStep b = .next t := (instrStep_of_row b even row).trans answer
  exact ⟨t, answer, by rw [step_of_running s on loaded runs, run, countStep]⟩

/-! ## A call of `execute` -/

/-- One more unit of budget is one more step, unless that step ends the call (R142). -/
theorem execute_succ (n : Nat) {s t : State} (run : step s = .next t) :
    execute (n + 1) s = if t.result = .budget then execute n t else .next t := by
  have first : iteration s = .next t := run
  rw [execute, first]

/-- Halted, every iteration leaves the state as it is, however large the budget (R150). -/
theorem execute_of_halted (n : Nat) (s : State) (halted : s.halt = true) :
    execute n s = .next (setResult s .budget) := by
  induction n generalizing s with
  | zero => rfl
  | succ n ih =>
    have again : (setResult s .budget).result = .budget := rfl
    rw [execute_succ n (step_of_halted s halted), if_pos again, ih (setResult s .budget) halted]
    rfl

/-- Settles O14: the budget's recursion, by `execute_succ` and `execute_of_halted`. -/
theorem executeRunsSteps : Obligations.ExecuteRunsSteps := by
  intro s n
  obtain ⟨t, run⟩ := step_next s
  exact ⟨rfl, execute_of_halted n s, t, run, execute_succ n run⟩

/-! ## The rule for an instruction's result (R146) -/

/-- Step 1: the condition code of the result, or the one that was there. -/
theorem withCc_eq (s : State) (cc : Option CC) (exc : Option ProgramException) :
    Result.withCc ⟨s, cc, exc⟩ = { s with psw := { s.psw with cc := cc.getD s.psw.cc } } := by
  cases cc <;> rfl

/-- Steps 2 and 3: a condition interrupts unless its mask bit is there and 0. -/
theorem finish_of_exc (r : Result) (e : ProgramException) (h : r.exc = some e) :
    finish r = .next (if suppressed r.withCc.psw.pm e then r.withCc else programInterrupt r.withCc e) := by
  simp only [finish, postProcess, h]

/-- An overflow that a mask bit rules: it interrupts if and only if the bit is 1. -/
theorem finish_of_masked (r : Result) (e : ProgramException) (bit : Bool) (h : r.exc = some e)
    (mask : suppressed r.withCc.psw.pm e = !bit) :
    finish r = .next (if bit then programInterrupt r.withCc e else r.withCc) := by
  rw [finish_of_exc r e h, mask]
  cases bit <;> rfl

/-- Settles O17: by the exception; only the two masked ones look at the program mask. -/
theorem postProcessingRule : Obligations.PostProcessingRule := by
  intro s cc exc u
  have code : Result.withCc ⟨s, cc, exc⟩ = u := withCc_eq s cc exc
  cases exc with
  | none => rw [finish_of_exc_none _ rfl, code]
  | some e =>
    cases e with
    | fixedPointOverflow => rw [finish_of_masked _ _ (s.psw.pm.getLsbD 3) rfl (by rw [code]; rfl), code]
    | decimalOverflow => rw [finish_of_masked _ _ (s.psw.pm.getLsbD 2) rfl (by rw [code]; rfl), code]
    | _ => rw [finish_interrupts _ _ rfl rfl, code]

end Sys2Proof.Machine

/-! The instructions handed to the host (spec/41_psw_system.md R180 to R198). -/

namespace Sys2Proof.Machine

/-- What the call returns for a hand-off, by its kind and its first four bytes (R148). -/
def handedOffResult (kind : HandoffKind) (insn : Word) : ExecResult :=
  match kind with
  | .diag => .sentinel .diag insn
  | .io => .sentinel .io (0#16 ++ insn.extractLsb' 16 16)
  | .priv => .sentinel .priv (0#16 ++ insn.extractLsb' 16 16)
  | .unknown => .unknownInstruction

theorem handoffResult_eq (b0 b1 b2 b3 : Byte) :
    handoffResult b0 b1 b2 b3 = handedOffResult (handoffKind b0 b1) (b0 ++ b1 ++ b2 ++ b3) := by
  have halves : (b0 ++ b1).setWidth 32 = 0#16 ++ BitVec.extractLsb' 16 16 (b0 ++ b1 ++ b2 ++ b3) := by
    have firstTwo : BitVec.extractLsb' 16 16 (b0 ++ b1 ++ b2 ++ b3) = b0 ++ b1 := by
      rw [BitVec.append_assoc]
      exact BitVec.extractLsb'_append_eq_left
    rw [firstTwo, setWidth_append_eq, BitVec.append_assoc]
    rfl
  unfold handoffResult handedOffResult
  cases handoffKind b0 b1
  · rfl
  · exact congrArg (ExecResult.sentinel .io) halves
  · exact congrArg (ExecResult.sentinel .priv) halves
  · rfl

/-- The word of a storage operand's base register and displacement is that of its two bytes (R103). -/
theorem append_baseDisp (op b1 : Byte) (b : RegNum) (d : Disp) :
    op ++ b1 ++ (b ++ d.extractLsb' 8 4) ++ d.extractLsb' 0 8 = (op ++ b1 ++ b ++ d : Word) := by
  have whole : d.extractLsb' 8 4 ++ d.extractLsb' 0 8 = d := by
    simpa only [dispOf, loNib_append] using dispOf_baseDisp b d
  have inner : op ++ b1 ++ (b ++ d.extractLsb' 8 4) = (op ++ b1 ++ b ++ d.extractLsb' 8 4 : BitVec 24) :=
    BitVec.append_assoc.symm
  have outer : (op ++ b1 ++ b ++ d.extractLsb' 8 4 : BitVec 24) ++ d.extractLsb' 0 8 =
      (op ++ b1 ++ b ++ (d.extractLsb' 8 4 ++ d.extractLsb' 0 8) : Word) := BitVec.append_assoc
  rw [inner, outer, whole]

/-- The hand-off of an instruction of four bytes whose last two are a base register and a displacement (R148). -/
theorem exec_of_handOff {i : Instr} {s : State} {op b1 : Byte} {b : RegNum} {d : Disp} {kind : HandoffKind}
    (run : exec i s = .next (handOffBytes s (op :: b1 :: baseDisp b d))) (ofKind : handoffKind op b1 = kind) :
    exec i s = .next { s with
      record := { ra := b1.extractLsb' 4 4, rb := b1.extractLsb' 0 4, imm := b1, addr := ea s b d
                  insn := op ++ b1 ++ b ++ d }
      result := handedOffResult kind (op ++ b1 ++ b ++ d) } := by
  rw [run, baseDisp, handOffBytes_cons, handOff, handoffResult_eq, ofKind, append_baseDisp, hiNib_append,
    dispOf_baseDisp]
  rfl

/-- Settles O43: each of the instructions hands off its own encoding, whose first byte tells the kind. -/
theorem handOffInstructions : Obligations.HandOffInstructions := by
  intro s u r1 r3 b2 d2 io priv diag
  rw [← List.forall_iff_forall_mem]
  and_intros <;> exact exec_of_handOff rfl rfl

end Sys2Proof.Machine

/-! Signed overflow (spec/42_general_arith.md R200, R544). -/

namespace Sys2Proof.Machine

/-- The wrapped value of an integer differs from it by a multiple of 2^32 (R200 a). -/
theorem toInt_ofInt_sub_emod (t : Int) : ((BitVec.ofInt 32 t).toInt - t) % 2 ^ 32 = 0 := by
  rw [BitVec.toInt_ofInt]
  exact Int.emod_eq_zero_of_dvd Int.dvd_bmod_sub_self

/-- A sign-extended halfword keeps its value (R203). -/
theorem toInt_halfAt (s : State) (x b : RegNum) (d : Disp) : (halfAt s x b d).toInt = (read16 s (eax s x b d)).toInt :=
  BitVec.toInt_signExtend_of_le (by decide)

/-- Signed arithmetic that overflows (R200 a, b, R544): the wrapped value and condition code 3, and the interruption if
and only if the mask bit is 1. -/
theorem signedOverflow_of_signedResult {i : Instr} {s : State} {r : RegNum} {t : Int} (big : ¬fitsWord t)
    (run : exec i s = finish (signedResult s r t)) :
    ∃ v : Word, (v.toInt - t) % 2 ^ 32 = 0 ∧
      (s.psw.pm.getLsbD 3 = false → SetsRegCc i s r v 3) ∧
      (s.psw.pm.getLsbD 3 = true →
        exec i s = .next (programInterrupt (setCc (setReg s r v) 3) .fixedPointOverflow)) := by
  let v : Word := BitVec.ofInt 32 t
  have taken : exec i s = .next (if s.psw.pm.getLsbD 3 then
      programInterrupt (setCc (setReg s r v) 3) .fixedPointOverflow else setCc (setReg s r v) 3) := by
    rw [run, signedResult_overflow s r t ((overflows_iff t).2 big)]
    exact finish_of_masked _ _ (s.psw.pm.getLsbD 3) rfl rfl
  refine ⟨v, toInt_ofInt_sub_emod t, fun off => setsRegCc_of ?_, fun on => ?_⟩
  · rw [taken, off]
    rfl
  · rw [taken, on]
    rfl

/-- Settles O27: each of the eight is `signedResult` of its exact result. -/
theorem signedOverflow : Obligations.SignedOverflow := by
  intro s r1 r2 x2 b2 d2 x y w h
  have half : (halfAt s x2 b2 d2).toInt = h := toInt_halfAt s x2 b2 d2
  rw [← List.forall_iff_forall_mem]
  refine ⟨?ar, ?a, ?ah, ?sr, ?s, ?sh, ?lcr, ?lpr⟩ <;> refine fun big => signedOverflow_of_signedResult big ?_
  case ar | a | sr | s => rfl
  case ah | sh => rw [← half]; rfl
  case lcr => rw [← Int.zero_sub]; rfl
  case lpr => rw [Int.abs_eq_natAbs]; rfl

end Sys2Proof.Machine

/-! Decimal arithmetic on valid operands (spec/47_decimal_engine.md R473 to R476, spec/48_decimal_instructions.md R502 to
R504, R508). -/

namespace Sys2Proof.Machine

/-! ## Encoded fields (R475) -/

theorem digitBytes_length (n m : Nat) : (digitBytes n m).length = n := by
  induction n generalizing m with
  | zero => rfl
  | succ n ih => rw [digitBytes, List.length_append, ih, List.length_singleton]

theorem encField_length {L : Nat} (pos : 0 < L) (neg : Bool) (mag : Nat) : (encField L neg mag).length = L := by
  rw [encField, List.length_append, digitBytes_length, List.length_singleton, Nat.sub_add_cancel pos]

/-- The `n` bytes hold the low `2n` digits. -/
theorem digitBytes_mod (n m : Nat) : digitBytes n (m % 100 ^ n) = digitBytes n m := by
  induction n generalizing m with
  | zero => rfl
  | succ n ih =>
    have low : m % 100 ^ (n + 1) % 100 = m % 100 := Nat.mod_mod_of_dvd m (Dvd.intro_left _ rfl)
    have high : m % 100 ^ (n + 1) / 100 = m / 100 % 100 ^ n := by
      rw [Nat.pow_succ', Nat.mod_mul_right_div_self]
    have units : m % 100 ^ (n + 1) % 10 = m % 10 := by omega
    have tens : m % 100 ^ (n + 1) / 10 % 10 = m / 10 % 10 := by omega
    rw [digitBytes, high, ih, tens, units, digitBytes]

/-- An encoded field holds the low `2L − 1` digits (R475). -/
theorem encField_mod {L : Nat} (pos : 0 < L) (neg : Bool) (mag : Nat) :
    encField L neg (mag % 10 ^ (2 * L - 1)) = encField L neg mag := by
  obtain ⟨n, rfl⟩ : ∃ n, L = n + 1 := ⟨L - 1, by omega⟩
  have digits : 10 ^ (2 * (n + 1) - 1) = 10 * 100 ^ n := by
    rw [show 2 * (n + 1) - 1 = 2 * n + 1 by omega, Nat.pow_succ', Nat.pow_mul]
  have last : mag % (10 * 100 ^ n) % 10 = mag % 10 := Nat.mod_mul_right_mod mag 10 _
  have rest : mag % (10 * 100 ^ n) / 10 = mag / 10 % 100 ^ n := Nat.mod_mul_right_div_self mag 10 _
  rw [digits, encField, last, rest, Nat.add_sub_cancel, digitBytes_mod, encField, Nat.add_sub_cancel]

/-! ## The result rule (R476) -/

theorem writeField_psw (s : State) (a : Addr) (bs : List Byte) : (writeField s a bs).psw = s.psw :=
  (onlyMem_writeField bs s a).psw

/-- A result that fits: stored with its sign, which is the condition code; a zero is plus. -/
theorem decimalResult_of_fits (s : State) (a : Addr) (L : Nat) (r : Int) (fits : r.natAbs < 10 ^ (2 * L - 1)) :
    decimalResult s a L r = doneCc (writeField s a (encField L (decide (r < 0)) r.natAbs)) (signCode r) := by
  have noOverflow : decOverflow L r.natAbs = false := decide_eq_false (Nat.not_le.2 fits)
  have sign : (decide (r < 0) && !decide (r = 0)) = decide (r < 0) := by
    rw [← decide_not, ← Bool.decide_and]
    exact decide_eq_decide.2 (by omega)
  simp only [decimalResult, noOverflow, Nat.mod_eq_of_lt fits, Int.natAbs_eq_zero, Bool.not_false, Bool.and_true, sign,
    Bool.false_eq_true, if_false, decide_eq_true_eq, doneCc, signCode]

/-- A result that does not fit: the low digits stored with its sign, condition code 3, the overflow condition. -/
theorem decimalResult_of_overflow (s : State) (a : Addr) {L : Nat} (pos : 0 < L) (r : Int)
    (big : 10 ^ (2 * L - 1) ≤ r.natAbs) :
    decimalResult s a L r =
      ⟨writeField s a (encField L (decide (r < 0)) r.natAbs), some 3, some .decimalOverflow⟩ := by
  have overflow : decOverflow L r.natAbs = true := decide_eq_true big
  simp only [decimalResult, overflow, encField_mod pos, Bool.not_true, Bool.and_false, Bool.not_false, Bool.and_true,
    if_true]

/-- What an instruction answers whose rule stores the decimal result `r` (R146, R476). -/
theorem storesCc_of_decimalResult {i : Instr} {s : State} {a : Addr} {L : Nat} {r : Int}
    (canonical : memoryCanonical s = true) (pos : 0 < L) (bound : L ≤ 2 ^ 24)
    (run : exec i s = finish (decimalResult s a L r)) :
    (r.natAbs < 10 ^ (2 * L - 1) → StoresCc i s a (encField L (decide (r < 0)) r.natAbs) (signCode r)) ∧
    (10 ^ (2 * L - 1) ≤ r.natAbs → s.psw.pm.getLsbD 2 = false →
      StoresCc i s a (encField L (decide (r < 0)) r.natAbs) 3) ∧
    (10 ^ (2 * L - 1) ≤ r.natAbs → s.psw.pm.getLsbD 2 = true →
      exec i s = .next (programInterrupt
        (setCc (writeField s a (encField L (decide (r < 0)) r.natAbs)) 3) .decimalOverflow)) := by
  let u := setCc (writeField s a (encField L (decide (r < 0)) r.natAbs)) 3
  have length : (encField L (decide (r < 0)) r.natAbs).length ≤ 2 ^ 24 := by rwa [encField_length pos]
  have taken (big : 10 ^ (2 * L - 1) ≤ r.natAbs) :
      exec i s = .next (if s.psw.pm.getLsbD 2 then programInterrupt u .decimalOverflow else u) := by
    rw [run, decimalResult_of_overflow s a pos r big, ← writeField_psw s a (encField L (decide (r < 0)) r.natAbs)]
    exact finish_of_masked _ _ _ rfl rfl
  refine ⟨fun fits => storesCc_of canonical length ?_, fun big off => storesCc_of canonical length ?_,
    fun big on => ?_⟩
  · rw [run, decimalResult_of_fits s a L r fits]
  · rw [taken big, off]
    rfl
  · rw [taken big, on]
    rfl

/-! ## The instructions -/

theorem onFields_of_valid (s : State) (op : Config.DecimalOp) (a1 : Addr) (L1 : Nat) (a2 : Addr) (L2 : Nat)
    (k : DecValue → DecValue → Result)
    (valid : ((decField (readField s a1 L1)).valid && (decField (readField s a2 L2)).valid) = true) :
    onFields s op a1 L1 a2 L2 k = k (decField (readField s a1 L1)) (decField (readField s a2 L2)) := if_pos valid

/-- A right shift rounded by a decimal digit takes a zero to a zero: the digit alone does not reach the next place. -/
theorem roundingDigit_div_eq_zero {digit n : Nat} (isDigit : digit ≤ 9) (pos : 0 < n) :
    digit * 10 ^ (n - 1) / 10 ^ n = 0 := by
  apply Nat.div_eq_of_lt
  calc digit * 10 ^ (n - 1) < 10 * 10 ^ (n - 1) :=
        Nat.mul_lt_mul_of_pos_right (Nat.lt_succ_of_le isDigit) (Nat.pow_pos (by decide))
    _ = 10 ^ n := by rw [← Nat.pow_succ', Nat.succ_eq_add_one, Nat.sub_add_cancel pos]

theorem sign_val_of_ne_zero (u : DecValue) (nonzero : u.mag ≠ 0) : u.val.sign = if u.neg then -1 else 1 := by
  unfold DecValue.val
  split
  · rw [Int.sign_neg, Int.sign_natCast_of_ne_zero nonzero]
  · exact Int.sign_natCast_of_ne_zero nonzero

/-- The value SRP stores, with the sign of its operand; a zero has none, and stays zero (R508). -/
theorem srpValue_eq (u : DecValue) (shift : Int) {digit : Nat} (isDigit : digit ≤ 9) :
    srpValue u shift digit =
      if 0 ≤ shift then u.val * 10 ^ shift.toNat
      else u.val.sign * ((u.mag + digit * 10 ^ ((-shift).toNat - 1)) / 10 ^ (-shift).toNat : Nat) := by
  unfold srpValue
  split
  · rfl
  next right =>
    dsimp only
    by_cases zero : u.mag = 0
    · rw [zero, Nat.zero_add, roundingDigit_div_eq_zero isDigit (by omega)]
      simp only [Nat.cast_zero, neg_zero, ite_self, mul_zero]
    · rw [sign_val_of_ne_zero u zero]
      split
      · exact (neg_one_mul _).symm
      · exact (one_mul _).symm

/-- Settles O53: on valid operands each of the four is `decimalResult` of its exact result. -/
theorem decimalArithmetic : Obligations.DecimalArithmetic := by
  intro s l1 l2 b1 b2 d1 d2 canonical a1 L u v shift shifted
  have rule {i : Instr} {r : Int} := storesCc_of_decimalResult (i := i) (s := s) (a := a1) (L := L) (r := r) canonical
    l1.toNat.succ_pos (by omega)
  rw [← List.forall_iff_forall_mem]
  refine ⟨fun valid => rule ?zap, fun valid => rule ?ap, fun valid => rule ?sp, fun valid => rule ?srp⟩
  case zap => exact congrArg finish (if_pos valid)
  case ap | sp => exact congrArg finish (onFields_of_valid s _ a1 L _ _ _ valid)
  case srp =>
    have isDigit : l2.toNat ≤ 9 := of_decide_eq_true (Bool.and_eq_true_iff.1 valid).2
    have value : srpValue u shift l2.toNat = shifted := srpValue_eq u shift isDigit
    rw [← value]
    exact congrArg finish (if_pos valid)

end Sys2Proof.Machine

/-! The instructions that load, store or exchange PSW fields and storage keys (spec/41_psw_system.md R171 to R178): LPSW,
SVC, the masks, and the keys. -/

namespace Sys2Proof.Machine

/-- An instruction that replaces the PSW changes nothing else. -/
theorem gives_of_psw {i : Instr} {s : State} {p : PSW} (h : exec i s = .next { s with psw := p }) :
    Gives i s fun t => t.psw = p ∧ Frame [] [] s t ∧ SameMemory s t :=
  ⟨_, h, rfl, frame_of_eq [] [] rfl rfl (by simp [SameControl]), fun _ => rfl⟩

/-! ## What the image at an address loads, byte by byte (R32, R560) -/

theorem loadPsw_of_loads {s : State} {a : Addr} (h : pswLoads s a) :
    loadPsw s a = { s with psw := pswAt s a s.psw.ilc } := by
  obtain ⟨ec, enabled⟩ := h
  rw [← read64_ec] at ec
  have notDisabled : ((pswAt s a s.psw.ilc).w && (pswAt s a s.psw.ilc).sm == 0) = false := by
    simpa [pswAt] using enabled
  rw [← pswOfImage_read64] at notDisabled ⊢
  exact loadPswImage_of_loads s _ ec notDisabled

theorem loadPsw_of_ec {s : State} {a : Addr} (ec : (readByte s (a + 1)).getLsbD 3 = true) :
    loadPsw s a = { s with result := .pswLoadFault .unsupportedMode } :=
  loadPswImage_of_ec s _ ((read64_ec s a).trans ec)

theorem loadPsw_of_disabled {s : State} {a : Addr} (ec : (readByte s (a + 1)).getLsbD 3 = false)
    (wait : (readByte s (a + 1)).getLsbD 1 = true) (zero : readByte s a = 0) :
    loadPsw s a = { s with psw := pswAt s a s.psw.ilc, result := .pswLoadFault .disabledWait } := by
  rw [← read64_ec] at ec
  have disabled : ((pswAt s a s.psw.ilc).w && (pswAt s a s.psw.ilc).sm == 0) = true := by
    rw [Bool.and_eq_true, beq_iff_eq]
    exact ⟨wait, zero⟩
  rw [← pswOfImage_read64] at disabled ⊢
  exact loadPswImage_of_disabled s _ ec disabled

/-! ## LPSW (R171, R552) -/

theorem exec_lpsw (s : State) (i2 : Byte) (b1 : RegNum) (d1 : Disp) (aligned : (ea s b1 d1).toNat % 8 = 0) :
    exec (.lpsw i2 b1 d1) s = .next (loadPsw s (ea s b1 d1)) :=
  congrArg finish (if_pos aligned)

/-- The image of a PSW gives every field back but the interruption code and the ILC, which is that of the loading CPU. -/
theorem pswOfImage_pswImage_ilc (p : PSW) (ilc : BitVec 2) :
    pswOfImage (pswImage p) ilc = { p with ic := 0, ilc := ilc } :=
  congrArg (fun q : PSW => { q with ilc := ilc }) (pswOfImage_pswImage p)

theorem read64_initiate_old (r : State) (old new : Addr) (code : BitVec 16) (hr : memoryCanonical r = true) :
    read64 (initiate r old new code) old = pswImage { r.psw with ic := code } :=
  (read64_congr (initiate_mem r old new code) old).trans (read64_write64 r old _ (memoryCanonical_rising hr))

/-- Loading the old location of an interruption returns to the interrupted PSW (R552). -/
theorem loadPsw_initiate_psw (r : State) (old new : Addr) (code : BitVec 16) (hr : memoryCanonical r = true) :
    (loadPsw (initiate r old new code) old).psw =
      { r.psw with ic := 0, ilc := (initiate r old new code).psw.ilc } := by
  rw [loadPsw, read64_initiate_old r old new code hr, loadPswImage_psw _ _ (pswImage_ec _), pswOfImage_pswImage_ilc]

/-- Settles O19: LPSW is `loadPsw`, which has three outcomes by the bytes of the image; after an interruption the image is
the one that the interruption stored. -/
theorem lpswLoadsAndReturns : Obligations.LpswLoadsAndReturns := by
  intro s i2 b1 d1 a aligned
  have load : exec (.lpsw i2 b1 d1) s = .next (loadPsw s a) := exec_lpsw s i2 b1 d1 aligned
  refine ⟨fun loads => ?_, fun r code new hr _ interrupted => ⟨_, load, ?_⟩, fun ec => ?_, fun ec wait zero => ?_⟩
  · rw [loadPsw_of_loads loads] at load
    exact gives_of_psw load
  · have back := loadPsw_initiate_psw r a new code hr
    rwa [← interrupted] at back
  · rw [load, loadPsw_of_ec ec]
  · rw [load, loadPsw_of_disabled ec wait zero]

/-! ## SVC (R175, R551) -/

theorem exec_svc (i : Byte) (s : State) : exec (.svc i) s = .next (initiate s 32 96 (0#8 ++ i)) := by
  have immediate : 0#8 ++ i = i.setWidth 16 := by simp [BitVec.setWidth_eq_append]
  rw [immediate]
  rfl

/-- Settles O20: SVC is the interruption of `interruptionSwapsPsw` at 32 and 96; its three cases are the outcomes of the
load of the new PSW. -/
theorem supervisorCall : Obligations.SupervisorCall := by
  intro s i hs swaps
  obtain ⟨stored, outside, regs, fprs, control, onEc, onBc⟩ :=
    interruptionSwapsPsw s (0#8 ++ i) hs (32, 96) (by simp)
  have swapped : ∀ p, (initiate s 32 96 (0#8 ++ i)).psw = p → swaps (initiate s 32 96 (0#8 ++ i)) p := by
    refine fun p loaded => ⟨loaded, outside, ⟨regs, fprs, control⟩, stored.trans ?_⟩
    simp only [BitVec.append_assoc, BitVec.cast_eq]
  refine ⟨fun loads => ?_, fun ec => ?_, fun ec wait zero => ?_⟩
  · obtain ⟨ec, enabled⟩ := loads
    obtain ⟨loaded, result⟩ := onBc ec
    exact ⟨_, exec_svc i s, swapped _ loaded, result.trans (if_neg enabled)⟩
  · obtain ⟨kept, result⟩ := onEc ec
    exact ⟨_, exec_svc i s, swapped _ kept, result⟩
  · obtain ⟨loaded, result⟩ := onBc ec
    exact ⟨_, exec_svc i s, swapped _ loaded, result.trans (if_pos ⟨wait, zero⟩)⟩

/-! ## The masks and the storage keys (R172 to R174, R176 to R178) -/

theorem readByte_writeByte_self (s : State) (a : Addr) (v : Byte) (hs : memoryCanonical s = true) :
    readByte (writeByte s a v) a = v := by
  rw [readByte_writeByte s a a v (memoryCanonical_rising hs), if_pos rfl]

theorem sameOutside_writeByte (s : State) (a : Addr) (v : Byte) : SameOutside s (writeByte s a v) a 1 :=
  readByte_writeField_outside [v] s a

/-- STNSM and STOSM: the system mask stored as it was, then replaced. -/
theorem gives_of_storedMask {i : Instr} {s : State} {a : Addr} {m : Byte} (hs : memoryCanonical s = true)
    (h : exec i s = finish (done (setSm (writeByte s a s.psw.sm) m))) :
    Gives i s fun t => readByte t a = s.psw.sm ∧ SameOutside s t a 1 ∧ t.psw = { s.psw with sm := m } ∧
      Frame [] [] s t :=
  ⟨_, h.trans (finish_done _), readByte_writeByte_self s a _ hs, sameOutside_writeByte s a _, rfl,
    frame_of_eq [] [] rfl rfl (by simp [SameControl, writeByte])⟩

theorem memoryCanonical_rising_keys {s : State} (h : memoryCanonical s = true) : Memory.rising none s.keys = true := by
  simp only [memoryCanonical, Bool.and_eq_true] at h
  exact Memory.wf_rising h.2

/-- SSK: the key of one page set, everything else as it was. -/
theorem gives_of_writtenKey {i : Instr} {s : State} {page : BitVec 13} {v : Byte} (hs : memoryCanonical s = true)
    (h : exec i s = finish (done (writeKey s page v))) :
    Gives i s fun t => readKey t page = v ∧ (∀ q, q ≠ page → readKey t q = readKey s q) ∧ t.psw = s.psw ∧
      SameRegsBut [] s t ∧ SameFprsBut [] s t ∧ SameMemory s t ∧ SameControl { s with keys := t.keys } t := by
  have read := fun q => readKey_writeKey s page q v (memoryCanonical_rising_keys hs)
  refine ⟨_, h.trans (finish_done _), (read page).trans (if_pos rfl), fun q other => (read q).trans (if_neg other), rfl,
    fun _ _ => rfl, fun f _ => getFpr_congr rfl f, fun _ => rfl, by simp [SameControl, writeKey]⟩

/-- Settles O41: SSM and SPM replace PSW fields, STNSM and STOSM store the mask before they change it, SSK and ISK write
and read the key of the page. -/
theorem masksAndStorageKeys : Obligations.MasksAndStorageKeys := fun _ _ _ _ _ _ =>
  ⟨gives_of_psw rfl, gives_of_psw rfl,
    fun hs => ⟨gives_of_storedMask hs rfl, gives_of_storedMask hs rfl, gives_of_writtenKey hs rfl⟩, setsReg_of rfl⟩

end Sys2Proof.Machine

/-! Fixed-point arithmetic (spec/42_general_arith.md R200, R205 to R208, R213 to R227): signed results that fit, logical
add and subtract, products, quotients and remainders. -/

namespace Sys2Proof.Machine

/-! ## Signed results in range (R200 a) -/

/-- A signed result that fits is the value of its word. -/
theorem toInt_ofInt_of_fitsWord {t : Int} (fits : fitsWord t) : (BitVec.ofInt 32 t).toInt = t :=
  BitVec.toInt_ofInt_eq_self (by decide) fits.1 fits.2

theorem overflows_of_fitsWord {t : Int} (fits : fitsWord t) : overflows t = false :=
  Bool.eq_false_iff.2 fun big => (overflows_iff t).1 big fits

/-- Signed arithmetic that fits: the exact result and its sign (R200 a). -/
theorem setsRegCc_of_signedResult {i : Instr} {s : State} {r : RegNum} {t : Int} (fits : fitsWord t)
    (run : exec i s = finish (signedResult s r t)) : ∃ v : Word, v.toInt = t ∧ SetsRegCc i s r v (signCode t) := by
  rw [signedResult_in_range s r t (overflows_of_fitsWord fits)] at run
  exact ⟨BitVec.ofInt 32 t, toInt_ofInt_of_fitsWord fits, setsRegCc_of run⟩

/-- Settles O26: all but LTR are `signedResult` of their exact result; LTR moves the register as it is. -/
theorem signedResultInRange : Obligations.SignedResultInRange := by
  intro s r1 r2 x2 b2 d2 x y w h
  have half : (halfAt s x2 b2 d2).toInt = h := toInt_halfAt s x2 b2 d2
  rw [← List.forall_iff_forall_mem]
  refine ⟨?ar, ?a, ?ah, ?sr, ?s, ?sh, ?lcr, ?lpr, ?lnr, fun _ => ⟨getReg s r2, rfl, setsRegCc_of rfl⟩⟩ <;>
    refine fun fits => setsRegCc_of_signedResult fits ?_
  case ar | a | sr | s => rfl
  case ah | sh => rw [← half]; rfl
  case lcr => rw [← Int.zero_sub]; rfl
  case lpr => rw [Int.abs_eq_natAbs]; rfl
  case lnr => rw [Int.abs_eq_natAbs, ← Int.zero_sub]; rfl

/-! ## Logical add and subtract (R200 c, R221) -/

/-- The code of a logical sum, by the wrapped sum: with a carry the sum is zero exactly at 2^32. -/
theorem ccAddLogical_eq (x y : Word) :
    ccAddLogical x y =
      if x.toNat + y.toNat < 2 ^ 32 then (if x + y = 0 then 0 else 1) else (if x + y = 0 then 2 else 3) := by
  have wrapped : (x + y).toNat = (x.toNat + y.toNat) % 2 ^ 32 := BitVec.toNat_add x y
  have zero : x + y = 0 ↔ (x.toNat + y.toNat) % 2 ^ 32 = 0 := by rw [← wrapped]; exact BitVec.toNat_eq
  have hx := x.isLt
  have hy := y.isLt
  simp only [ccAddLogical, zero]
  split
  next small => rw [Nat.mod_eq_of_lt small]
  next big =>
    have top : x.toNat + y.toNat = 2 ^ 32 ↔ (x.toNat + y.toNat) % 2 ^ 32 = 0 := by omega
    simp only [top]

/-- Settles O28: sums by `ccAddLogical_eq`; differences leave their code to `SL_CC`. -/
theorem logicalAddSubtract : Obligations.LogicalAddSubtract := by
  intro s r1 r2 x2 b2 d2 x carryCode y w
  have carry : ∀ z, ccAddLogical x z = carryCode z := ccAddLogical_eq x
  refine ⟨setsRegCc_of ?_, setsRegCc_of ?_, setsRegCc_of rfl, setsRegCc_of rfl⟩ <;> rw [← carry] <;> rfl

/-! ## Products (R223 to R225) -/

theorem getLsbD_zero_of_isEven {r : RegNum} (even : isEven r = true) : r.getLsbD 0 = false := by
  simpa [isEven] using even

/-- The product of two words fits in 64 bits. -/
theorem toInt_ofInt_mul (x y : Word) : (BitVec.ofInt 64 (x.toInt * y.toInt)).toInt = x.toInt * y.toInt := by
  have low : -2 ^ 62 ≤ x.toInt * y.toInt := BitVec.le_toInt_mul_toInt
  have high : x.toInt * y.toInt ≤ 2 ^ 62 := BitVec.toInt_mul_toInt_le
  exact BitVec.toInt_ofInt_eq_self (by decide) (by omega) (by omega)

/-- A product into a pair is exact (R223). -/
theorem setsPair_of_multiplyResult {i : Instr} {s : State} {r : RegNum} {d : Word} (even : isEven r = true)
    (run : exec i s = finish (multiplyResult s r d)) :
    ∃ v : DWord, v.toInt = (getReg s (r + 1)).toInt * d.toInt ∧ SetsPair i s r v := by
  rw [multiplyResult_of_even s r d (getLsbD_zero_of_isEven even)] at run
  exact ⟨_, toInt_ofInt_mul _ _, setsPair_of run⟩

/-- Settles O29: MR and M by `setsPair_of_multiplyResult`; MH writes the low word of the product with the halfword. -/
theorem multiplyProducts : Obligations.MultiplyProducts := by
  intro s r1 r2 x2 b2 d2 w h
  have half : (halfAt s x2 b2 d2).toInt = h.toInt := toInt_halfAt s x2 b2 d2
  refine ⟨fun even => setsPair_of_multiplyResult even rfl, fun even => setsPair_of_multiplyResult even rfl,
    setsReg_of ?_⟩
  rw [← half]
  rfl

/-! ## Quotients and remainders (R226, R227) -/

/-- The two halves of a pair, written one after the other, are the pair. -/
theorem setPair_append (s : State) (r : RegNum) (hi lo : Word) :
    setPair s r (hi ++ lo) = setReg (setReg s r hi) (r + 1) lo := by
  rw [setPair, BitVec.extractLsb'_append_eq_left, BitVec.extractLsb'_append_eq_right]

/-- A remainder by a word is smaller than the word, so it fits. -/
theorem fitsWord_tmod (n : Int) {d : Word} (nonzero : d.toInt ≠ 0) :
    fitsWord (n.tmod d.toInt) ∧ (n.tmod d.toInt).natAbs < d.toInt.natAbs := by
  have small : (n.tmod d.toInt).natAbs < d.toInt.natAbs := by
    rw [Int.natAbs_tmod]
    exact Nat.mod_lt _ (Int.natAbs_pos.2 nonzero)
  have low : -2 ^ 31 ≤ d.toInt := BitVec.le_toInt d
  have high : d.toInt < 2 ^ 31 := BitVec.toInt_lt
  exact ⟨⟨by omega, by omega⟩, small⟩

/-- A remainder is zero or has the dividend's sign. -/
theorem tmod_sign (n d : Int) : n.tmod d = 0 ∨ (n.tmod d < 0 ↔ n < 0) := by
  by_cases divides : d ∣ n
  · exact .inl (Int.tmod_eq_zero_of_dvd divides)
  · refine .inr ?_
    rw [← Int.sign_eq_neg_one_iff_neg, Int.sign_tmod, if_neg divides, Int.sign_eq_neg_one_iff_neg]

/-- A division that completes: quotient and remainder as R226 has them. -/
theorem setsPair_of_divideResult {i : Instr} {s : State} {r : RegNum} {d : Word} (even : isEven r = true)
    (nonzero : d.toInt ≠ 0) (fits : fitsWord ((getPair s r).toInt.tdiv d.toInt))
    (run : exec i s = finish (divideResult s r d)) :
    ∃ q m : Word, (getPair s r).toInt = q.toInt * d.toInt + m.toInt ∧ m.toInt.natAbs < d.toInt.natAbs ∧
      (m.toInt = 0 ∨ (m.toInt < 0 ↔ (getPair s r).toInt < 0)) ∧ SetsPair i s r (m ++ q) := by
  obtain ⟨fitsRem, small⟩ := fitsWord_tmod (getPair s r).toInt nonzero
  have hd : d ≠ 0 := BitVec.toInt_ne.1 nonzero
  rw [divideResult_completes s r d (getLsbD_zero_of_isEven even) hd (overflows_of_fitsWord fits),
    ← setPair_append] at run
  refine ⟨_, _, ?_, ?_, ?_, setsPair_of run⟩ <;> rw [toInt_ofInt_of_fitsWord fitsRem]
  · rw [toInt_ofInt_of_fitsWord fits, Int.add_comm, Int.tmod_add_tdiv_mul]
  · exact small
  · exact tmod_sign _ _

/-- A division that raises: a zero divisor, or a quotient that does not fit (R226). -/
theorem traps_of_divideResult {i : Instr} {s : State} {r : RegNum} {d : Word} (even : isEven r = true)
    (bad : d.toInt = 0 ∨ ¬fitsWord ((getPair s r).toInt.tdiv d.toInt))
    (run : exec i s = finish (divideResult s r d)) : Traps i s .fixedPointDivide := by
  have raises : d = 0 ∨ overflows ((getPair s r).toInt.tdiv d.toInt) = true :=
    bad.imp (BitVec.toInt_inj (y := 0)).1 (overflows_iff _).2
  rw [divideResult_raises s r d (getLsbD_zero_of_isEven even) raises] at run
  exact traps_of (fun _ => rfl) run

/-- Settles O30: DR and D are `divideResult` of the pair and the divisor. -/
theorem divideResults : Obligations.DivideResults := by
  intro s r1 r2 x2 b2 d2 even n
  rw [← List.forall_iff_forall_mem]
  refine ⟨⟨?dr, ?drBad⟩, ?d, ?dBad⟩
  case dr | d => exact fun ⟨nonzero, fits⟩ => setsPair_of_divideResult even nonzero fits rfl
  case drBad | dBad => exact fun bad => traps_of_divideResult even bad rfl

end Sys2Proof.Machine

/-! Stores (spec/42_general_arith.md R209 to R212, spec/43_general_logical_storage.md R300, R302, R303): a stored number
is a byte string, and the registers and words that LM and STM move. -/

namespace Sys2Proof.Machine

/-! ## A stored number as a byte string (R8) -/

theorem writeField_append (s : State) (a : Addr) (bs cs : List Byte) :
    writeField s a (bs ++ cs) = writeField (writeField s a bs) (offset a bs.length) cs := by
  induction bs generalizing s a with
  | nil => simp [writeField, offset_zero]
  | cons b bs ih => rw [List.cons_append, writeField, ih, offset_succ]; rfl

@[simp] theorem bytesBE_length (n v : Nat) : (bytesBE n v).length = n := by
  induction n with
  | zero => rfl
  | succ n ih => rw [bytesBE, List.length_cons, ih]

/-- The last byte of a number is its low byte. -/
theorem bytesBE_succ (n v : Nat) : bytesBE (n + 1) v = bytesBE n (v / 256) ++ [BitVec.ofNat 8 v] := by
  induction n with
  | zero => simp [bytesBE]
  | succ n ih => rw [bytesBE, ih, bytesBE, List.cons_append, Nat.div_div_eq_div_mul, ← Nat.pow_succ']

/-- Storing a number is storing its bytes, the most significant first. -/
theorem writeBE_eq_writeField (n : Nat) (s : State) (a : Addr) (v : Nat) :
    writeBE s a n v = writeField s a (bytesBE n v) := by
  induction n generalizing v with
  | zero => rfl
  | succ n ih => rw [writeBE, ih, bytesBE_succ, writeField_append, bytesBE_length]; rfl

/-- A byte of a word, as a byte of the number. -/
theorem ofNat_div_eq_extractLsb' {w : Nat} (v : BitVec w) (k : Nat) :
    BitVec.ofNat 8 (v.toNat / 256 ^ k) = v.extractLsb' (8 * k) 8 := by
  rw [BitVec.extractLsb', Nat.shiftRight_eq_div_pow, Nat.pow_mul]

theorem write32_eq_writeField (s : State) (a : Addr) (v : Word) :
    write32 s a v =
      writeField s a [v.extractLsb' 24 8, v.extractLsb' 16 8, v.extractLsb' 8 8, v.extractLsb' 0 8] := by
  simp only [write32, writeBE_eq_writeField, bytesBE, ofNat_div_eq_extractLsb']

theorem write16_eq_writeField (s : State) (a : Addr) (v : Half) :
    write16 s a v = writeField s a [v.extractLsb' 8 8, v.extractLsb' 0 8] := by
  simp only [write16, writeBE_eq_writeField, bytesBE, ofNat_div_eq_extractLsb']

/-- Settles O24: each of the five stores a byte string. -/
theorem registerStores : Obligations.RegisterStores := by
  intro s r1 x2 b2 m3 b1 d2 d1 i2 hs v
  have ofLowHalf : ∀ k, k + 8 ≤ 16 → (v.extractLsb' 0 16).extractLsb' k 8 = v.extractLsb' k 8 :=
    fun _ => BitVec.extractLsb'_extractLsb'_of_le
  refine ⟨stores_of hs (by simp) ?st, stores_of hs (by simp) ?sth, stores_of hs (by simp) rfl,
    stores_of hs ?stcmLength ?stcm, stores_of hs (by simp) rfl⟩
  case st => rw [← write32_eq_writeField]; rfl
  case sth => rw [← ofLowHalf 8 (by decide), ← ofLowHalf 0 (by decide), ← write16_eq_writeField]; rfl
  case stcmLength =>
    rw [selectedBytes_length]
    exact (List.length_filter_le _ _).trans (by simp)
  case stcm => rw [selectedBytes_eq_map]; rfl

/-! ## The registers and words that LM and STM move (R209, R212) -/

/-- The distance above the next register, modulo 16. -/
theorem reg_sub_succ_toNat (r q : RegNum) :
    (q - (r + 1)).toNat = if q = r then 15 else (q - r).toNat - 1 := by decide +revert

theorem reg_sub_toNat_eq_zero (r q : RegNum) : (q - r).toNat = 0 ↔ q = r := by decide +revert

theorem offset_add_four (a : Addr) (k : Nat) : offset (a + 4) k = offset a (4 + k) := offset_offset a 4 k

theorem read32_congr {s t : State} (a : Addr) (h : ∀ k < 4, readByte t (offset a k) = readByte s (offset a k)) :
    read32 t a = read32 s a := by
  rw [read32, read32, readBE_congr a 4 h]

/-- What a register holds after `n` registers are loaded: the word at its distance above the first. -/
theorem getReg_loadRegs (n : Nat) (r q : RegNum) (a : Addr) (s : State) (hn : n ≤ 16) :
    getReg (loadRegs n r a s) q =
      if (q - r).toNat < n then read32 s (offset a (4 * (q - r).toNat)) else getReg s q := by
  induction n generalizing r a s with
  | zero => rfl
  | succ n ih =>
    have word : ∀ b, read32 (setReg s r (read32 s a)) b = read32 s b := fun b => read32_congr b fun _ _ => rfl
    rw [loadRegs, ih _ _ _ (by omega), reg_sub_succ_toNat, word, getReg_setReg]
    by_cases first : q = r
    · have zero := (reg_sub_toNat_eq_zero r q).2 first
      rw [if_pos first, if_neg (by omega), if_pos first, if_pos (by omega), zero, offset_zero]
    · have pos := mt (reg_sub_toNat_eq_zero r q).1 first
      have next : 4 + 4 * ((q - r).toNat - 1) = 4 * (q - r).toNat := by omega
      have within : (q - r).toNat - 1 < n ↔ (q - r).toNat < n + 1 := by omega
      simp only [if_neg first, offset_add_four, next, within]

/-- STM leaves every byte outside its words alone. -/
theorem sameOutside_storeRegs (n : Nat) (r : RegNum) (a : Addr) (s : State) :
    SameOutside s (storeRegs n r a s) a (4 * n) := by
  induction n generalizing r a s with
  | zero => exact fun _ _ => rfl
  | succ n ih =>
    intro x hx
    have dist : (x - (a + 4)).toNat = (x - a).toNat - 4 := by bv_omega
    rw [storeRegs, ih _ _ _ x (by omega)]
    exact sameOutside_write32 s a _ x (by omega)

/-- The word `k` after `n` registers are stored: register `k` from the first on. -/
theorem read32_storeRegs (n k : Nat) (r : RegNum) (a : Addr) (s : State) (hs : Memory.rising none s.mem = true)
    (hn : 4 * n ≤ 2 ^ 24) (hk : k < n) :
    read32 (storeRegs n r a s) (offset a (4 * k)) = getReg s (r + BitVec.ofNat 4 k) := by
  induction n generalizing k r a s with
  | zero => omega
  | succ n ih =>
    cases k with
    | zero =>
      have kept : ∀ j < 4, readByte (storeRegs n (r + 1) (a + 4) (write32 s a (getReg s r))) (offset a j) =
          readByte (write32 s a (getReg s r)) (offset a j) := fun j hj =>
        sameOutside_storeRegs n _ _ _ _ (by simp only [offset]; bv_omega)
      rw [Nat.mul_zero, offset_zero, storeRegs, read32_congr a kept, read32_write32 s a _ hs]
      exact congrArg _ (BitVec.add_zero r).symm
    | succ k =>
      have reg : r + 1 + BitVec.ofNat 4 k = r + BitVec.ofNat 4 (k + 1) := by
        rw [BitVec.add_assoc, Nat.add_comm k 1, BitVec.ofNat_add]
        rfl
      rw [storeRegs, Nat.mul_succ, Nat.add_comm, ← offset_add_four, ← reg]
      obtain ⟨regs, _, _⟩ := frame_of_onlyMem [] [] (onlyMem_writeBE 4 s a (getReg s r).toNat)
      exact (ih k _ _ _ (rising_writeBE 4 s a _ hs) (by omega) (by omega)).trans (regs _ List.not_mem_nil)

/-- The register `k` above the first one, for a `k` below 16. -/
theorem reg_add_sub_toNat (r : RegNum) {k : Nat} (hk : k < 16) : (r + BitVec.ofNat 4 k - r).toNat = k := by
  bv_omega

/-- Settles O25: LM by `getReg_loadRegs`, STM by `read32_storeRegs`. -/
theorem multipleRegisters : Obligations.MultipleRegisters := by
  intro s r1 r3 b2 d2 a n
  have hn : n < 16 := (r3 - r1).isLt
  constructor
  · have loaded := fun q => getReg_loadRegs (n + 1) r1 q a s hn
    have frame := loadRegs_other (n + 1) r1 a s
    refine ⟨_, finish_done _, fun k hk => ?_, fun q hq => ?_, ?_⟩
    · have dist := reg_add_sub_toNat r1 (show k < 16 by omega)
      refine (loaded _).trans ?_
      rw [if_pos (by omega), dist]
      rfl
    · exact (loaded q).trans (if_neg (by omega))
    · rw [show registerCount r1 r3 = n + 1 from rfl, frame]
      exact ⟨rfl, fun f _ => getFpr_congr rfl f, by simp [SameControl], fun _ => rfl⟩
  · intro hs
    have onlyMem := onlyMem_storeRegs (n + 1) r1 a s
    exact ⟨_, finish_done _,
      fun k hk => read32_storeRegs (n + 1) k r1 a s (memoryCanonical_rising hs) (by omega) (by omega),
      sameOutside_storeRegs (n + 1) r1 a s, onlyMem.psw, frame_of_onlyMem [] [] onlyMem⟩

end Sys2Proof.Machine

/-! Compares (spec/42_general_arith.md R228 to R230, spec/43_general_logical_storage.md R293 to R298): comparing byte
strings left to right is comparing the numbers they write. -/

namespace Sys2Proof.Machine

theorem bytesValue_append_singleton (bs : List Byte) (b : Byte) :
    bytesValue (bs ++ [b]) = bytesValue bs * 256 + b.toNat := by
  rw [bytesValue, List.foldl_append]
  rfl

/-- The first byte is the most significant. -/
theorem bytesValue_cons (b : Byte) (bs : List Byte) :
    bytesValue (b :: bs) = b.toNat * 256 ^ bs.length + bytesValue bs := by
  induction bs using List.reverseRecOn with
  | nil => simp [bytesValue]
  | append_singleton bs c ih =>
    rw [← List.cons_append, bytesValue_append_singleton, ih, bytesValue_append_singleton, List.length_append,
      List.length_singleton]
    ring

theorem bytesValue_lt (bs : List Byte) : bytesValue bs < 256 ^ bs.length := by
  induction bs with
  | nil => simp [bytesValue]
  | cons b bs ih =>
    have hb : b.toNat + 1 ≤ 256 := b.isLt
    calc bytesValue (b :: bs) < (b.toNat + 1) * 256 ^ bs.length := by rw [bytesValue_cons]; linarith
      _ ≤ 256 * 256 ^ bs.length := Nat.mul_le_mul_right _ hb
      _ = 256 ^ (b :: bs).length := by rw [List.length_cons, Nat.pow_succ']

/-- Strings with a lower first byte are lower, whatever follows. -/
theorem bytesValue_cons_lt {u v : Byte} {us vs : List Byte} (len : us.length = vs.length) (low : u.toNat < v.toNat) :
    bytesValue (u :: us) < bytesValue (v :: vs) := by
  have tail := bytesValue_lt us
  have head : (u.toNat + 1) * 256 ^ us.length ≤ v.toNat * 256 ^ us.length := Nat.mul_le_mul_right _ low
  rw [bytesValue_cons, bytesValue_cons, ← len]
  linarith

theorem orderCode_of_lt {u v : Int} (h : u < v) : orderCode u v = 1 := by rw [orderCode, if_neg h.ne, if_pos h]

theorem orderCode_of_gt {u v : Int} (h : v < u) : orderCode u v = 2 := by
  rw [orderCode, if_neg h.ne', if_neg h.not_gt]

/-- Byte strings of one length compare left to right as their numbers (R280 b). -/
theorem ccBytes_eq_orderCode (us vs : List Byte) (len : us.length = vs.length) :
    ccBytes us vs = orderCode (bytesValue us) (bytesValue vs) := by
  induction us generalizing vs with
  | nil => rw [List.length_eq_zero_iff.1 len.symm]; rfl
  | cons u us ih =>
    cases vs with
    | nil => simp at len
    | cons v vs =>
      have tails : us.length = vs.length := Nat.succ.inj len
      rw [ccBytes]
      rcases Nat.lt_trichotomy u.toNat v.toNat with low | same | high
      · have differ : u ≠ v := fun e => by rw [e] at low; exact Nat.lt_irrefl _ low
        rw [if_neg differ, if_pos low, orderCode_of_lt (by exact_mod_cast bytesValue_cons_lt tails low)]
      · have heads : u = v := BitVec.eq_of_toNat_eq same
        rw [if_pos heads, ih vs tails, heads, bytesValue_cons, bytesValue_cons, tails]
        simp only [orderCode, Nat.cast_add, Int.add_right_inj, Int.add_lt_add_iff_left]
      · have differ : u ≠ v := fun e => by rw [e] at high; exact Nat.lt_irrefl _ high
        rw [if_neg differ, if_neg high.not_gt,
          orderCode_of_gt (by exact_mod_cast bytesValue_cons_lt tails.symm high)]

/-- Settles O31: each compare sets its code alone; CLC and CLM by `ccBytes_eq_orderCode`. -/
theorem compareCodes : Obligations.CompareCodes := by
  intro s l i2 r1 r2 m3 x2 b2 b1 d2 d1 x y w b bs
  refine ⟨setsCc_of rfl, setsCc_of rfl, setsCc_of ?ch, setsCc_of rfl, setsCc_of rfl, setsCc_of rfl, setsCc_of rfl,
    setsCc_of ?clc, setsCc_of ?clm⟩
  case ch => rw [← toInt_halfAt]; rfl
  case clc => rw [← ccBytes_eq_orderCode _ _ (by simp)]; rfl
  case clm =>
    rw [← ccBytes_eq_orderCode _ _ (by simp), show bs = _ from selectedBytes_eq_map m3 x]
    rfl

end Sys2Proof.Machine

/-! Shifts (spec/42_general_arith.md R231 to R238): multiplication and division by a power of two, and the arithmetic
left shift bit by bit. -/

namespace Sys2Proof.Machine

/-! ## Shifts as multiplication and division -/

theorem shiftAmount_eq (s : State) (b : RegNum) (d : Disp) : shiftAmount s b d = (ea s b d).toNat % 64 := by
  rw [shiftAmount, BitVec.extractLsb'_toNat, Nat.shiftRight_zero]

theorem shiftLeft_eq_ofNat {w : Nat} (x : BitVec w) (n : Nat) : x <<< n = BitVec.ofNat w (x.toNat * 2 ^ n) := by
  apply BitVec.eq_of_toNat_eq
  rw [BitVec.toNat_shiftLeft, Nat.shiftLeft_eq, BitVec.toNat_ofNat]

theorem ushiftRight_eq_ofNat {w : Nat} (x : BitVec w) (n : Nat) : x >>> n = BitVec.ofNat w (x.toNat / 2 ^ n) := by
  rw [← Nat.shiftRight_eq_div_pow, ← BitVec.toNat_ushiftRight, BitVec.ofNat_toNat, BitVec.setWidth_eq]

theorem sshiftRight_eq_ofInt {w : Nat} (x : BitVec w) (n : Nat) :
    x.sshiftRight n = BitVec.ofInt w (x.toInt / 2 ^ n) := by
  rw [BitVec.sshiftRight, Int.shiftRight_eq_div_pow]
  norm_cast

theorem toInt_sshiftRight_eq_div {w : Nat} (x : BitVec w) (n : Nat) : (x.sshiftRight n).toInt = x.toInt / 2 ^ n := by
  rw [BitVec.toInt_sshiftRight, Int.shiftRight_eq_div_pow]
  norm_cast

/-- A right shift by more than the bits below the sign leaves copies of the sign (R232). -/
theorem sshiftRight_min {w : Nat} (x : BitVec (w + 1)) (n : Nat) : x.sshiftRight (min n w) = x.sshiftRight n := by
  rcases Nat.lt_or_ge w n with beyond | within
  · rw [Nat.min_eq_right beyond.le]
    ext i hi
    have copied : (x.sshiftRight n)[i] = x.msb := by rw [BitVec.getElem_sshiftRight, dif_neg (by omega)]
    rw [copied, BitVec.getElem_sshiftRight]
    split
    next last =>
      obtain rfl : i = 0 := by omega
      simp [BitVec.msb_eq_getLsbD_last]
    next => rfl
  · rw [Nat.min_eq_left within]

/-! ## The arithmetic left shift, bit by bit (R231, R235) -/

/-- The value of a word from its sign and the bits below it. -/
def signedValue {w : Nat} (sign : Bool) (v : BitVec w) : Int := v.toNat - if sign then 2 ^ w else 0

/-- The value of a word with `w` bits below the sign. -/
def FitsBits (w : Nat) (t : Int) : Prop := -2 ^ w ≤ t ∧ t < 2 ^ w

theorem toInt_ofBool_append {w : Nat} (sign : Bool) (v : BitVec w) :
    (BitVec.ofBool sign ++ v).toInt = signedValue sign v := by
  cases sign <;> simp [BitVec.toInt_append, signedValue, Int.sub_eq_add_neg, Int.add_comm]

/-- A word is its sign and the bits below it. -/
theorem ofBool_msb_append {w : Nat} (x : BitVec (1 + w)) : BitVec.ofBool x.msb ++ x.extractLsb' 0 w = x := by
  have top : 1 + w - 1 = w := Nat.add_sub_cancel_left 1 w
  rw [BitVec.msb_eq_getLsbD_last, top, ofBool_getLsbD, BitVec.extractLsb'_append_extractLsb']

theorem fitsBits_signedValue {w : Nat} (sign : Bool) (v : BitVec w) : FitsBits w (signedValue sign v) := by
  have hv : (v.toNat : Int) < 2 ^ w := by exact_mod_cast v.isLt
  simp only [FitsBits, signedValue]
  split <;> omega

/-- The bit that a single shift drops is the sign if and only if the doubled value fits. -/
theorem msb_eq_sign_iff {w : Nat} (sign : Bool) (v : BitVec w) :
    v.msb = sign ↔ FitsBits w (signedValue sign v * 2) := by
  have hv : (v.toNat : Int) < 2 ^ w := by exact_mod_cast v.isLt
  cases sign
  · rw [BitVec.msb_eq_false_iff_two_mul_lt]
    zify
    simp only [FitsBits, signedValue, Bool.false_eq_true, if_false]
    omega
  · rw [BitVec.msb_eq_true_iff_two_mul_ge]
    zify
    simp only [FitsBits, signedValue, if_true]
    omega

/-- A single shift that drops a copy of the sign doubles the value. -/
theorem signedValue_shiftLeft_one {w : Nat} {sign : Bool} {v : BitVec w} (kept : v.msb = sign) :
    signedValue sign (v <<< 1) = signedValue sign v * 2 := by
  have double : (v <<< 1).toNat = v.toNat * 2 % 2 ^ w := by
    rw [BitVec.toNat_shiftLeft, Nat.shiftLeft_eq, Nat.pow_one]
  have hv := v.isLt
  cases sign
  · have small := BitVec.msb_eq_false_iff_two_mul_lt.1 kept
    rw [Nat.mod_eq_of_lt (by omega)] at double
    simp [signedValue, double]
  · have big := BitVec.msb_eq_true_iff_two_mul_ge.1 kept
    rw [Nat.mod_eq_sub_mod (by omega), Nat.mod_eq_of_lt (by omega)] at double
    simp only [signedValue, double, if_true]
    push_cast [show 2 ^ w ≤ v.toNat * 2 by omega]
    ring

/-- A value whose multiple fits fits itself. -/
theorem fitsBits_of_mul {w n : Nat} {t : Int} (fits : FitsBits w (t * 2 ^ n)) : FitsBits w t := by
  obtain ⟨low, high⟩ := fits
  have pos : (1 : Int) ≤ 2 ^ n := one_le_pow₀ (by norm_num)
  have range : (0 : Int) < 2 ^ w := by positivity
  constructor <;> nlinarith

theorem shiftLeftArith_fst {w : Nat} (sign : Bool) (n : Nat) (v : BitVec w) (ovf : Bool) :
    (shiftLeftArith sign n v ovf).1 = v <<< n := by
  induction n generalizing v ovf with
  | zero => rw [BitVec.shiftLeft_zero]; rfl
  | succ n ih => rw [shiftLeftArith, ih, ← BitVec.shiftLeft_add, Nat.add_comm]

/-- An overflow once found stays. -/
theorem shiftLeftArith_snd_of_overflowed {w : Nat} (sign : Bool) (n : Nat) (v : BitVec w) :
    (shiftLeftArith sign n v true).2 = true := by
  induction n generalizing v with
  | zero => rfl
  | succ n ih => exact ih _

/-- A product that fits is the shifted value, and no dropped bit differs from the sign. -/
theorem shiftLeftArith_of_fits {w : Nat} (sign : Bool) (n : Nat) (v : BitVec w)
    (fits : FitsBits w (signedValue sign v * 2 ^ n)) :
    (shiftLeftArith sign n v false).2 = false ∧
      signedValue sign (shiftLeftArith sign n v false).1 = signedValue sign v * 2 ^ n := by
  induction n generalizing v with
  | zero => exact ⟨rfl, by rw [pow_zero, mul_one]; rfl⟩
  | succ n ih =>
    rw [pow_succ', ← mul_assoc] at fits ⊢
    have kept : v.msb = sign := (msb_eq_sign_iff sign v).2 (fitsBits_of_mul fits)
    have flag : (false || (v.msb != sign)) = false := by simp [kept]
    rw [← signedValue_shiftLeft_one kept] at fits ⊢
    rw [shiftLeftArith, flag]
    exact ih _ fits

/-- A product that does not fit drops a bit that differs from the sign. -/
theorem shiftLeftArith_of_not_fits {w : Nat} (sign : Bool) (n : Nat) (v : BitVec w)
    (big : ¬FitsBits w (signedValue sign v * 2 ^ n)) : (shiftLeftArith sign n v false).2 = true := by
  induction n generalizing v with
  | zero => exact absurd (by simpa using fitsBits_signedValue sign v) big
  | succ n ih =>
    rw [shiftLeftArith]
    by_cases kept : v.msb = sign
    · have flag : (false || (v.msb != sign)) = false := by simp [kept]
      rw [pow_succ', ← mul_assoc, ← signedValue_shiftLeft_one kept] at big
      rw [flag]
      exact ih _ big
    · have flag : (false || (v.msb != sign)) = true := by simp [kept]
      rw [flag]
      exact shiftLeftArith_snd_of_overflowed sign n _

/-! ## The arithmetic left shift of a word -/

/-- The word an arithmetic left shift yields: the sign, and the shifted bits below it. -/
def arithShifted {w : Nat} (x : BitVec (1 + w)) (n : Nat) : BitVec (1 + w) :=
  BitVec.ofBool x.msb ++ (shiftLeftArith x.msb n (x.extractLsb' 0 w) false).1

/-- Whether an arithmetic left shift overflows. -/
def arithShiftOverflows {w : Nat} (x : BitVec (1 + w)) (n : Nat) : Bool :=
  (shiftLeftArith x.msb n (x.extractLsb' 0 w) false).2

section
variable {w : Nat} (x : BitVec (1 + w)) (n : Nat)

theorem signedValue_eq_toInt : signedValue x.msb (x.extractLsb' 0 w) = x.toInt := by
  rw [← toInt_ofBool_append, ofBool_msb_append]

theorem msb_arithShifted : (arithShifted x n).msb = x.msb := by
  simp [arithShifted, BitVec.msb_append]

/-- Below the sign, the bits are those of the product. -/
theorem toNat_arithShifted_mod : (arithShifted x n).toNat % 2 ^ w = x.toNat * 2 ^ n % 2 ^ w := by
  have low : (arithShifted x n).extractLsb' 0 w = x.extractLsb' 0 w <<< n := by
    rw [arithShifted, BitVec.extractLsb'_append_eq_right, shiftLeftArith_fst]
  have numbers := congrArg BitVec.toNat low
  rw [BitVec.toNat_shiftLeft, Nat.shiftLeft_eq] at numbers
  simpa using numbers

theorem arithShiftOverflows_of_fits (fits : FitsBits w (x.toInt * 2 ^ n)) : arithShiftOverflows x n = false := by
  rw [← signedValue_eq_toInt] at fits
  exact (shiftLeftArith_of_fits _ n _ fits).1

theorem toInt_arithShifted_of_fits (fits : FitsBits w (x.toInt * 2 ^ n)) :
    (arithShifted x n).toInt = x.toInt * 2 ^ n := by
  rw [← signedValue_eq_toInt x] at fits ⊢
  rw [arithShifted, toInt_ofBool_append]
  exact (shiftLeftArith_of_fits _ n _ fits).2

theorem arithShiftOverflows_of_not_fits (big : ¬FitsBits w (x.toInt * 2 ^ n)) : arithShiftOverflows x n = true := by
  rw [← signedValue_eq_toInt] at big
  exact shiftLeftArith_of_not_fits _ n _ big

end

/-! ## What an arithmetic left shift answers -/

section
variable {i : Instr} {s t : State} {ovf : Bool} {v : Int}

theorem exec_shift_of_fits (run : exec i s = finish ⟨t, some (ccShiftLeft ovf v), excShiftLeft ovf⟩)
    (fits : ovf = false) : exec i s = finish (doneCc t (signCode v)) := by
  rw [run, fits]
  rfl

/-- An overflow interrupts if and only if the mask bit is 1 (R146, R231). -/
theorem exec_shift_of_overflow (run : exec i s = finish ⟨t, some (ccShiftLeft ovf v), excShiftLeft ovf⟩)
    (big : ovf = true) :
    exec i s = .next (if t.psw.pm.getLsbD 3 then programInterrupt (setCc t 3) .fixedPointOverflow else setCc t 3) := by
  rw [run, big]
  exact finish_of_masked _ _ _ rfl rfl

theorem exec_shift_of_masked (run : exec i s = finish ⟨t, some (ccShiftLeft ovf v), excShiftLeft ovf⟩)
    (big : ovf = true) (off : t.psw.pm.getLsbD 3 = false) : exec i s = finish (doneCc t 3) := by
  rw [exec_shift_of_overflow run big, off]
  rfl

theorem exec_shift_of_unmasked (run : exec i s = finish ⟨t, some (ccShiftLeft ovf v), excShiftLeft ovf⟩)
    (big : ovf = true) (on : t.psw.pm.getLsbD 3 = true) :
    exec i s = .next (programInterrupt (setCc t 3) .fixedPointOverflow) := by
  rw [exec_shift_of_overflow run big, on]
  rfl

end

theorem exec_sla (r1 r3 b2 : RegNum) (d2 : Disp) (s : State) :
    let n := (ea s b2 d2).toNat % 64
    let v : Word := arithShifted (w := 31) (getReg s r1) n
    let ovf := arithShiftOverflows (w := 31) (getReg s r1) n
    exec (.sla r1 r3 b2 d2) s = finish ⟨setReg s r1 v, some (ccShiftLeft ovf v.toInt), excShiftLeft ovf⟩ := by
  rw [← shiftAmount_eq]
  rfl

/-- Settles O32: SLL, SRL and SRA as numbers, SLA by the bits it drops (`shiftLeftArith_of_fits`). -/
theorem singleShifts : Obligations.SingleShifts := by
  intro s r1 r3 b2 d2 x n
  have amount : shiftAmount s b2 d2 = n := shiftAmount_eq s b2 d2
  have run := exec_sla r1 r3 b2 d2 s
  refine ⟨setsReg_of ?sll, setsReg_of ?srl, setsRegCc_of ?sra, arithShifted (w := 31) x n,
    msb_arithShifted (w := 31) x n, toNat_arithShifted_mod (w := 31) x n, fun fits => ⟨?value, setsRegCc_of ?fits⟩,
    fun big off => setsRegCc_of ?off, fun big on => ?on⟩
  case sll => rw [← shiftLeft_eq_ofNat, ← amount]; rfl
  case srl => rw [← ushiftRight_eq_ofNat, ← amount]; rfl
  case sra => rw [← sshiftRight_eq_ofInt, ← toInt_sshiftRight_eq_div, ← sshiftRight_min (w := 31), ← amount]; rfl
  case value => exact toInt_arithShifted_of_fits (w := 31) x n fits
  case fits => exact exec_shift_of_fits run (arithShiftOverflows_of_fits (w := 31) x n fits)
  case off => exact exec_shift_of_masked run (arithShiftOverflows_of_not_fits (w := 31) x n big) off
  case on => exact exec_shift_of_unmasked run (arithShiftOverflows_of_not_fits (w := 31) x n big) on

/-! ## Shifts of a pair (R235 to R238) -/

theorem exec_slda (r1 r3 b2 : RegNum) (d2 : Disp) (s : State) (even : isEven r1 = true) :
    let n := (ea s b2 d2).toNat % 64
    let v : DWord := arithShifted (w := 63) (getPair s r1) n
    let ovf := arithShiftOverflows (w := 63) (getPair s r1) n
    exec (.slda r1 r3 b2 d2) s = finish ⟨setPair s r1 v, some (ccShiftLeft ovf v.toInt), excShiftLeft ovf⟩ := by
  rw [← shiftAmount_eq]
  exact congrArg finish (whenEven_of_even r1 s _ (getLsbD_zero_of_isEven even))

/-- Settles O33: as O32 on the 64 bits of a pair whose first register is even. -/
theorem doubleShifts : Obligations.DoubleShifts := by
  intro s r1 r3 b2 d2 even x n fitsPair
  have amount : shiftAmount s b2 d2 = n := shiftAmount_eq s b2 d2
  have passes : ∀ k, finish (whenEven r1 s k) = finish k := fun k =>
    congrArg finish (whenEven_of_even r1 s k (getLsbD_zero_of_isEven even))
  have run := exec_slda r1 r3 b2 d2 s even
  refine ⟨setsPair_of ?sldl, setsPair_of ?srdl, setsPairCc_of ?srda, arithShifted (w := 63) x n,
    msb_arithShifted (w := 63) x n, toNat_arithShifted_mod (w := 63) x n, fun fits => ⟨?value, setsPairCc_of ?fits⟩,
    fun big off => setsPairCc_of ?off, fun big on => ?on⟩
  case sldl => rw [← shiftLeft_eq_ofNat, ← amount]; exact passes _
  case srdl => rw [← ushiftRight_eq_ofNat, ← amount]; exact passes _
  case srda => rw [← sshiftRight_eq_ofInt, ← toInt_sshiftRight_eq_div, ← amount]; exact passes _
  case value => exact toInt_arithShifted_of_fits (w := 63) x n fits
  case fits => exact exec_shift_of_fits run (arithShiftOverflows_of_fits (w := 63) x n fits)
  case off => exact exec_shift_of_masked run (arithShiftOverflows_of_not_fits (w := 63) x n big) off
  case on => exact exec_shift_of_unmasked run (arithShiftOverflows_of_not_fits (w := 63) x n big) on

end Sys2Proof.Machine

/-! Boolean operations on registers and bytes, TS, CS and CDS (spec/43_general_logical_storage.md R281 to R291, R330 to
R332): a result with the condition code that says whether it is zero, and a store or a load that a comparison
chooses. -/

namespace Sys2Proof.Machine

/-! ## AND, OR, exclusive OR, TS -/

theorem ccBoolean_beq_zero {n : Nat} (v : BitVec n) : ccBoolean (v == 0) = if v = 0 then 0 else 1 := by
  simp only [ccBoolean, beq_iff_eq]

theorem setsRegCc_of_booleanResult {i : Instr} {s : State} {r : RegNum} {v : Word}
    (run : exec i s = finish (booleanResult s r v)) : SetsRegCc i s r v (if v = 0 then 0 else 1) := by
  rw [← ccBoolean_beq_zero]
  exact setsRegCc_of run

/-- One stored byte is a byte string of length one. -/
theorem storesCc_of_writeByte {i : Instr} {s : State} {a : Addr} {v : Byte} {c : CC}
    (canonical : memoryCanonical s = true) (run : exec i s = finish (doneCc (writeByte s a v) c)) :
    StoresCc i s a [v] c :=
  storesCc_of canonical (by simp) run

theorem storesCc_of_booleanByteResult {i : Instr} {s : State} {a : Addr} {v : Byte}
    (canonical : memoryCanonical s = true) (run : exec i s = finish (booleanByteResult s a v)) :
    StoresCc i s a [v] (if v = 0 then 0 else 1) := by
  rw [← ccBoolean_beq_zero]
  exact storesCc_of_writeByte canonical run

/-- Settles O34: six results in a register, three in a byte, and TS, whose code is the leftmost bit of the old byte. -/
theorem booleanOperations : Obligations.BooleanOperations := by
  intro s r1 r2 x2 b2 b1 d2 d1 i2 x y w a b
  refine ⟨?registers, fun canonical => ⟨?bytes, ?ts⟩⟩
  case registers =>
    rw [← List.forall_iff_forall_mem]
    refine ⟨?nr, ?n, ?or, ?o, ?xr, ?x⟩ <;> exact setsRegCc_of_booleanResult rfl
  case bytes =>
    rw [← List.forall_iff_forall_mem]
    refine ⟨?ni, ?oi, ?xi⟩ <;> exact storesCc_of_booleanByteResult canonical rfl
  case ts =>
    rw [BitVec.msb_eq_getLsbD_last]
    exact storesCc_of_writeByte canonical rfl

/-! ## CS and CDS -/

theorem exec_cs (r1 r3 b2 : RegNum) (d2 : Disp) (s : State) (aligned : (ea s b2 d2).toNat % 4 = 0) :
    exec (.cs r1 r3 b2 d2) s = finish (
      if read32 s (ea s b2 d2) = getReg s r1 then doneCc (write32 s (ea s b2 d2) (getReg s r3)) 0
      else doneCc (setReg s r1 (read32 s (ea s b2 d2))) 1) :=
  congrArg finish (whenAligned_of_aligned 2 _ s _ aligned)

theorem exec_cds (r1 r3 b2 : RegNum) (d2 : Disp) (s : State) (even1 : isEven r1 = true) (even3 : isEven r3 = true)
    (aligned : (ea s b2 d2).toNat % 8 = 0) :
    exec (.cds r1 r3 b2 d2) s = finish (
      if read64 s (ea s b2 d2) = getPair s r1 then doneCc (write64 s (ea s b2 d2) (getPair s r3)) 0
      else doneCc (setPair s r1 (read64 s (ea s b2 d2))) 1) :=
  congrArg finish <| (whenEven_of_even r1 s _ (getLsbD_zero_of_isEven even1)).trans <|
    (whenEven_of_even r3 s _ (getLsbD_zero_of_isEven even3)).trans (whenAligned_of_aligned 3 _ s _ aligned)

/-- Settles O39: the comparison chooses between the two branches of `exec_cs` and of `exec_cds`. -/
theorem compareAndSwap : Obligations.CompareAndSwap := by
  intro s r1 r3 b2 d2 canonical a
  refine ⟨fun aligned same => storesCc_of canonical (by simp) ?_, fun aligned differ => setsRegCc_of ?_,
    fun even1 even3 aligned same => storesCc_of canonical (by simp) ?_,
    fun even1 even3 aligned differ => setsPairCc_of ?_⟩
  · rw [exec_cs r1 r3 b2 d2 s aligned, if_pos same, write32, writeBE_eq_writeField]
  · rw [exec_cs r1 r3 b2 d2 s aligned, if_neg differ]
  · rw [exec_cds r1 r3 b2 d2 s even1 even3 aligned, if_pos same, write64, writeBE_eq_writeField]
  · rw [exec_cds r1 r3 b2 d2 s even1 even3 aligned, if_neg differ]

end Sys2Proof.Machine

/-! TR and TRT (spec/43_general_logical_storage.md R307, R308): TR as bytes stored in turn from left to right (R86), TRT
as a search that passes over argument bytes with a zero function byte. -/

namespace Sys2Proof.Machine

/-! ## Frames of several changes -/

/-- A change of some registers and then of others is a change of all of them. -/
theorem Frame.trans {rs qs : List RegNum} {fs gs : List FReg} {s t u : State} (h : Frame rs fs s t)
    (k : Frame qs gs t u) : Frame (rs ++ qs) (fs ++ gs) s u := by
  obtain ⟨hr, hf, hc⟩ := h
  obtain ⟨kr, kf, kc⟩ := k
  refine ⟨fun r out => ?_, fun f out => ?_, ?_⟩
  · obtain ⟨first, second⟩ := not_or.1 (mt List.mem_append.2 out)
    exact (kr r second).trans (hr r first)
  · obtain ⟨first, second⟩ := not_or.1 (mt List.mem_append.2 out)
    exact (kf f second).trans (hf f first)
  · simp_all only [SameControl, and_self]

/-! ## The loop of TR (R307) -/

/-- The byte of the table at `t` for the argument byte at `a`. -/
def tableByte (t a : Addr) (s : State) : Byte := readByte s (t + (readByte s a).setWidth 24)

/-- The value that `translate` stores at place `k`. -/
def translatedByte (t a : Addr) (k : Nat) (_ u : State) : Byte := tableByte t (offset a k) u

/-- With `k` places stored, the loop of the `n` further ones stores those. -/
theorem translate_placesStored (t a : Addr) (s : State) (n k : Nat) :
    translate t n (offset a k) (placesStored (offset a) (translatedByte t a) s k) =
      placesStored (offset a) (translatedByte t a) s (k + n) := by
  induction n generalizing k with
  | zero => rfl
  | succ n ih =>
    rw [show k + (n + 1) = k + 1 + n by omega, ← ih, placesStored_succ, translate, offset_one]
    rfl

theorem translate_eq (t : Addr) (n : Nat) (a : Addr) (s : State) :
    translate t n a s = placesStored (offset a) (translatedByte t a) s n := by
  have start := translate_placesStored t a s n 0
  rwa [offset_zero, Nat.zero_add] at start

theorem readByte_translate_outside (t : Addr) {n : Nat} (hn : n ≤ 2 ^ 24) (a x : Addr) (s : State)
    (outside : n ≤ (x - a).toNat) : readByte (translate t n a s) x = readByte s x := by
  rw [translate_eq]
  exact readByte_placesStored_outside _ s (isRank_upward a n hn) x outside

/-- Translated byte `k`, with any overlap of field and table: the argument byte is the first one, the table byte the new
one where an earlier result byte was stored at its address. -/
theorem readByte_translate (t : Addr) {n : Nat} (hn : n ≤ 2 ^ 24) (a : Addr) (s : State)
    (h : Memory.rising none s.mem = true) {k : Nat} (hk : k < n) :
    let u := translate t n a s
    let entry := t + (readByte s (offset a k)).setWidth 24
    readByte u (offset a k) = if (entry - a).toNat < k then readByte u entry else readByte s entry := by
  intro u entry
  have ranked := isRank_upward a n hn
  have place : (offset a k - a).toNat = k := (ranked k hk _).1 rfl
  have argument : readByte (placesStored (offset a) (translatedByte t a) s k) (offset a k) =
      readByte s (offset a k) := by
    rw [readByte_placesStored _ _ ranked hk.le, if_neg (by omega)]
  simp only [u, translate_eq]
  rw [readByte_placesStored_place _ _ ranked h hk, translatedByte, tableByte, argument]
  exact readByte_placesStored _ _ ranked hk.le entry

/-! ## The search of TRT (R308) -/

/-- The search passes over argument bytes with a zero function byte. -/
theorem findFunction_add (s : State) (t : Addr) (k n : Nat) (a : Addr)
    (zero : ∀ j < k, tableByte t (offset a j) s = 0) :
    findFunction s t (k + n) a = findFunction s t n (offset a k) := by
  induction k generalizing a with
  | zero => rw [Nat.zero_add, offset_zero]
  | succ k ih =>
    have first : tableByte t a s = 0 := by simpa [offset_zero] using zero 0 k.succ_pos
    have later : ∀ j < k, tableByte t (offset (a + 1) j) s = 0 := fun j hj => by
      rw [offset_succ]
      exact zero (j + 1) (Nat.succ_lt_succ hj)
    rw [Nat.succ_add, findFunction, ← offset_succ, ← ih _ later]
    exact if_pos first

theorem findFunction_eq_none {s : State} {t a : Addr} {n : Nat} (zero : ∀ j < n, tableByte t (offset a j) s = 0) :
    findFunction s t n a = none := findFunction_add s t n 0 a zero

/-- The search ends at the first nonzero function byte. -/
theorem findFunction_eq_some {s : State} {t a : Addr} {k n : Nat} (zero : ∀ j < k, tableByte t (offset a j) s = 0)
    (nonzero : tableByte t (offset a k) s ≠ 0) :
    findFunction s t (k + (n + 1)) a = some (offset a k, tableByte t (offset a k) s, n) := by
  rw [findFunction_add s t k (n + 1) a zero]
  exact if_neg nonzero

theorem exec_trt_of_none {l : Byte} {b1 b2 : RegNum} {d1 d2 : Disp} {s : State}
    (found : findFunction s (ea s b2 d2) (l.toNat + 1) (ea s b1 d1) = none) :
    exec (.trt l b1 d1 b2 d2) s = finish (doneCc s 0) := by
  change execTrt l b1 d1 b2 d2 s = _
  rw [execTrt, byteCount, found]

theorem exec_trt_of_some {l : Byte} {b1 b2 : RegNum} {d1 d2 : Disp} {s : State} {x : Addr} {f : Byte} {left : Nat}
    (found : findFunction s (ea s b2 d2) (l.toNat + 1) (ea s b1 d1) = some (x, f, left)) :
    exec (.trt l b1 d1 b2 d2) s = .next (setCc
      (setReg (setReg s 1 ((getReg s 1).extractLsb' 24 8 ++ x)) 2 ((getReg s 2).extractLsb' 8 24 ++ f))
      (if left = 0 then 2 else 1)) := by
  change execTrt l b1 d1 b2 d2 s = _
  rw [execTrt, byteCount, found]
  rfl

/-! ## TR and TRT -/

/-- Settles O36: TR stores its places in turn (`readByte_translate`); TRT sets what its search finds. -/
theorem translateFields : Obligations.TranslateFields := by
  intro s l b1 b2 d1 d2 a entry
  refine ⟨fun canonical => ?tr, fun zero => setsCc_of ?none, fun k hk zero nonzero => ?found⟩
  case tr =>
    have short : l.toNat + 1 ≤ 2 ^ 24 := by have := l.isLt; omega
    have changed : OnlyMem s (translate (ea s b2 d2) (l.toNat + 1) a s) := onlyMem_translate ..
    exact ⟨_, rfl,
      fun k hk => readByte_translate _ short a s (memoryCanonical_rising canonical) (Nat.lt_succ_of_le hk),
      fun x outside => readByte_translate_outside _ short a x s outside, changed.psw, frame_of_onlyMem [] [] changed⟩
  case none => exact exec_trt_of_none (findFunction_eq_none fun j hj => zero j (Nat.le_of_lt_succ hj))
  case found =>
    have search : findFunction s (ea s b2 d2) (l.toNat + 1) a =
        some (offset a k, readByte s (entry k), l.toNat - k) := by
      rw [show l.toNat + 1 = k + (l.toNat - k + 1) by omega]
      exact findFunction_eq_some zero nonzero
    have last : (if l.toNat - k = 0 then 2 else 1 : CC) = if k = l.toNat then 2 else 1 := by
      simp only [show l.toNat - k = 0 ↔ k = l.toNat by omega]
    refine ⟨_, exec_trt_of_some search, by simp [offset], by simp, ?_,
      frame_setCc [1, 2] [] _ ((frame_setReg 1 _ s).trans (frame_setReg 2 _ _)), fun _ => rfl⟩
    rw [last]
    rfl

end Sys2Proof.Machine

/-! MVCL and CLCL (spec/43_general_logical_storage.md R309, R310): the registers they leave, MVCL as bytes stored in
turn from left to right (R86), CLCL as a walk over the two padded operands. -/

namespace Sys2Proof.Machine

/-! ## The registers (R309) -/

theorem succ_ne_of_isEven {r q : RegNum} (evenR : isEven r = true) (evenQ : isEven q = true) : r + 1 ≠ q := by
  decide +revert

/-- The four registers that are set. The two operands may be in one pair of registers: then they have to agree. -/
theorem getReg_setLongRegs (s : State) {r1 r2 : RegNum} (even1 : isEven r1 = true) (even2 : isEven r2 = true)
    (d l1 a l2 : Addr) (pad : Byte)
    (alike : r1 = r2 → d = a ∧ l1 = l2 ∧ (getReg s (r1 + 1)).extractLsb' 24 8 = pad) :
    let t := setLongRegs s r1 r2 d l1 a l2 pad
    getReg t r1 = 0#8 ++ d ∧ getReg t (r1 + 1) = (getReg s (r1 + 1)).extractLsb' 24 8 ++ l1 ∧
      getReg t r2 = 0#8 ++ a ∧ getReg t (r2 + 1) = pad ++ l2 := by
  have ne12 : r1 ≠ r2 + 1 := (succ_ne_of_isEven even2 even1).symm
  have ne21 : r1 + 1 ≠ r2 := succ_ne_of_isEven even1 even2
  by_cases same : r1 = r2
  · subst same
    obtain ⟨rfl, rfl, rfl⟩ := alike rfl
    simp only [setLongRegs, getReg_setReg, ne12, ne12.symm, if_true, if_false, and_self]
  · have lengths : r1 + 1 ≠ r2 + 1 := fun e => same ((BitVec.add_left_inj 1).1 e)
    simp only [setLongRegs, getReg_setReg, ne12, ne21, ne21.symm, same, lengths, succ_ne, (succ_ne _).symm, if_true,
      if_false, and_self]

theorem frame_setLongRegs (s : State) (r1 r2 : RegNum) (d l1 a l2 : Addr) (pad : Byte) :
    Frame [r1, r1 + 1, r2, r2 + 1] [] s (setLongRegs s r1 r2 d l1 a l2 pad) :=
  (frame_setReg r1 _ s).trans <| (frame_setReg (r1 + 1) _ _).trans <| (frame_setReg r2 _ _).trans <|
    frame_setReg (r2 + 1) _ _

/-! ## The move of MVCL -/

/-- The value that `moveLong` stores at place `k`, from a source of `L` bytes at `a`. -/
def movedLongByte (pad : Byte) (L : Nat) (a : Addr) (k : Nat) (_ u : State) : Byte :=
  if k < L then readByte u (offset a k) else pad

/-- With `k` places stored, the loop of the `n` further ones stores those. -/
theorem moveLong_placesStored (pad : Byte) (L : Nat) (d a : Addr) (s : State) (n k : Nat) :
    moveLong pad n (L - k) (offset d k) (offset a (min k L)) (placesStored (offset d) (movedLongByte pad L a) s k) =
      placesStored (offset d) (movedLongByte pad L a) s (k + n) := by
  induction n generalizing k with
  | zero => rfl
  | succ n ih =>
    rw [show k + (n + 1) = k + 1 + n by omega, ← ih, placesStored_succ _ _ _ k, movedLongByte]
    by_cases left : k < L
    · rw [if_pos left, show L - k = L - (k + 1) + 1 by omega, Nat.min_eq_left left.le, Nat.min_eq_left left, moveLong,
        offset_one, offset_one]
    · rw [if_neg left, show L - k = 0 by omega, show L - (k + 1) = 0 by omega, Nat.min_eq_right (by omega),
        Nat.min_eq_right (by omega), moveLong, offset_one]

theorem moveLong_eq (pad : Byte) (n L : Nat) (d a : Addr) (s : State) :
    moveLong pad n L d a s = placesStored (offset d) (movedLongByte pad L a) s n := by
  have start := moveLong_placesStored pad L d a s n 0
  rwa [Nat.sub_zero, Nat.zero_min, offset_zero, offset_zero, Nat.zero_add] at start

theorem readByte_moveLong_outside (pad : Byte) {n : Nat} (hn : n ≤ 2 ^ 24) (L : Nat) (d a x : Addr) (s : State)
    (outside : n ≤ (x - d).toNat) : readByte (moveLong pad n L d a s) x = readByte s x := by
  rw [moveLong_eq]
  exact readByte_placesStored_outside _ s (isRank_upward d n hn) x outside

/-- Without a destructive overlap no source byte has been stored into when its turn comes (R309). -/
theorem not_stored_of_not_overlap {d a : Addr} {k m : Nat} (hm : m ≤ 2 ^ 24)
    (apart : ¬(0 < (d - a).toNat ∧ (d - a).toNat < m)) (hk : k < m) : ¬(offset a k - d).toNat < k := by
  have dist : (offset a k - d).toNat = (2 ^ 24 - (d - a).toNat + k) % 2 ^ 24 := by
    have moved : offset a k - d = BitVec.ofNat 24 k - (d - a) := by
      rw [offset]
      ring
    rw [moved, BitVec.toNat_sub, BitVec.toNat_ofNat, Nat.add_mod_mod]
  have := (d - a).isLt
  omega

/-- Byte `k` of the destination: the source, and past its end the padding byte. -/
theorem readByte_moveLong (pad : Byte) {n : Nat} (hn : n ≤ 2 ^ 24) (L : Nat) (d a : Addr) (s : State)
    (h : Memory.rising none s.mem = true) (apart : ¬(0 < (d - a).toNat ∧ (d - a).toNat < min n L)) {k : Nat}
    (hk : k < n) :
    readByte (moveLong pad n L d a s) (offset d k) = if k < L then readByte s (offset a k) else pad := by
  have ranked := isRank_upward d n hn
  rw [moveLong_eq, readByte_placesStored_place _ _ ranked h hk, movedLongByte]
  split
  · next left =>
    rw [readByte_placesStored _ _ ranked hk.le, if_neg (not_stored_of_not_overlap (by omega) apart (by omega))]
  · rfl

/-! ## MVCL -/

theorem ofNat_min_toNat (x y : Addr) :
    (if x.toNat ≤ y.toNat then x else y) = BitVec.ofNat 24 (min x.toNat y.toNat) := by
  split
  · next le => rw [Nat.min_eq_left le, BitVec.ofNat_toNat, BitVec.setWidth_eq]
  · next gt => rw [Nat.min_eq_right (by omega), BitVec.ofNat_toNat, BitVec.setWidth_eq]

theorem exec_mvcl (r1 r2 : RegNum) (s : State) (even1 : isEven r1 = true) (even2 : isEven r2 = true) :
    let d := regAddr s r1
    let L1 := regLength s (r1 + 1)
    let a := regAddr s r2
    let L2 := regLength s (r2 + 1)
    let pad := padByte s (r2 + 1)
    let m := BitVec.ofNat 24 (min L1.toNat L2.toNat)
    exec (.mvcl r1 r2) s = finish (
      if 0 < (d - a).toNat ∧ (d - a).toNat < m.toNat then doneCc s 3
      else
        doneCc (setLongRegs (moveLong pad L1.toNat L2.toNat d a s) r1 r2 (d + L1) 0 (a + m) (L2 - m) pad)
          (orderCode L1.toNat L2.toNat)) := by
  intro d L1 a L2 pad m
  have shorter : m = if L1.toNat ≤ L2.toNat then L1 else L2 := (ofNat_min_toNat L1 L2).symm
  rw [shorter]
  exact congrArg finish <| (whenEven_of_even r1 s _ (getLsbD_zero_of_isEven even1)).trans
    (whenEven_of_even r2 s _ (getLsbD_zero_of_isEven even2))

/-- Settles O37: the destination by `readByte_moveLong`, the registers by `getReg_setLongRegs`, where operands in one
pair of registers are one operand. (The name `moveLong` is the model's loop.) -/
theorem moveLongInstruction : Obligations.MoveLong := by
  intro s r1 r2 canonical even1 even2 d L1 a L2 pad m overlap
  have run := exec_mvcl r1 r2 s even1 even2
  have shorter : (BitVec.ofNat 24 m).toNat = m := Nat.mod_eq_of_lt ((Nat.min_le_left _ _).trans_lt L1.isLt)
  refine ⟨fun destructive => setsCc_of ?_, fun apart => ?_⟩
  · exact run.trans (congrArg finish (if_pos (shorter.symm ▸ destructive)))
  · let u := moveLong pad L1.toNat L2.toNat d a s
    have changed : OnlyMem s u := onlyMem_moveLong ..
    have regs (r : RegNum) : getReg u r = getReg s r := getReg_congr (by rw [changed]) r
    have short : L1.toNat ≤ 2 ^ 24 := L1.isLt.le
    have alike : r1 = r2 → d + L1 = a + BitVec.ofNat 24 m ∧ 0 = L2 - BitVec.ofNat 24 m ∧
        (getReg u (r1 + 1)).extractLsb' 24 8 = pad := by
      rintro rfl
      rw [regs, show BitVec.ofNat 24 m = L1 from (ofNat_min_toNat L1 L1).symm.trans (ite_self _)]
      exact ⟨rfl, (BitVec.sub_self L1).symm, rfl⟩
    obtain ⟨first, firstLength, second, secondLength⟩ := getReg_setLongRegs u even1 even2 _ _ _ _ pad alike
    rw [regs] at firstLength
    refine ⟨_, run.trans (congrArg finish (if_neg (shorter.symm ▸ apart))),
      fun k hk => readByte_moveLong pad short L2.toNat d a s (memoryCanonical_rising canonical) apart hk,
      fun x outside => readByte_moveLong_outside pad short L2.toNat d a x s outside,
      first, firstLength, second, secondLength, ?_,
      frame_setCc _ [] _ ((frame_of_onlyMem [] [] changed).trans (frame_setLongRegs ..))⟩
    rw [← changed.psw]
    rfl

/-! ## CLCL (R310) -/

/-- Byte `k` of an operand of `L` bytes at `a`, extended with the padding byte. -/
def paddedByte (s : State) (pad : Byte) (a : Addr) (L k : Nat) : Byte :=
  if k < L then readByte s (offset a k) else pad

/-- What CLCL has reached when the operands agree before place `k`. -/
def comparedTo (a : Addr) (L1 : Nat) (b : Addr) (L2 k : Nat) : LongCompare :=
  ⟨offset a (min k L1), L1 - min k L1, offset b (min k L2), L2 - min k L2, 0⟩

/-- One operand of the walk, at place `k` with `r` bytes left from `p` on: the byte compared, and the address and
remaining length of the next place. -/
theorem longOperand_at (s : State) (pad : Byte) {a p : Addr} {L r k : Nat} (hp : p = offset a (min k L))
    (hr : r = L - min k L) :
    (if r = 0 then pad else readByte s p) = paddedByte s pad a L k ∧
      (if r = 0 then p else p + 1) = offset a (min (k + 1) L) ∧ r - 1 = L - min (k + 1) L := by
  subst hp hr
  by_cases inside : k < L
  · rw [Nat.min_eq_left inside.le, Nat.min_eq_left inside, if_neg (by omega), if_neg (by omega), paddedByte,
      if_pos inside, offset_one]
    exact ⟨rfl, rfl, by omega⟩
  · rw [Nat.min_eq_right (by omega), Nat.min_eq_right (by omega), Nat.sub_self, paddedByte, if_neg inside]
    exact ⟨rfl, rfl, rfl⟩

section Walk

variable (s : State) (pad : Byte) (a : Addr) (L1 : Nat) (b : Addr) (L2 : Nat)

/-- One place of the walk: on to the next where the operands agree, else the condition code of the two bytes. -/
theorem compareLong_succ (n k : Nat) (inside : k < max L1 L2) :
    compareLong s pad (n + 1) (comparedTo a L1 b L2 k) =
      if paddedByte s pad a L1 k = paddedByte s pad b L2 k then compareLong s pad n (comparedTo a L1 b L2 (k + 1))
      else { comparedTo a L1 b L2 k with
        cc := if (paddedByte s pad a L1 k).toNat < (paddedByte s pad b L2 k).toNat then 1 else 2 } := by
  generalize reached : comparedTo a L1 b L2 k = c
  obtain ⟨at1, left1, at2, left2, code⟩ : c.a = offset a (min k L1) ∧ c.l1 = L1 - min k L1 ∧
      c.b = offset b (min k L2) ∧ c.l2 = L2 - min k L2 ∧ c.cc = 0 := by
    rw [← reached]
    exact ⟨rfl, rfl, rfl, rfl, rfl⟩
  obtain ⟨byte1, address1, length1⟩ := longOperand_at s pad at1 left1
  obtain ⟨byte2, address2, length2⟩ := longOperand_at s pad at2 left2
  have unfinished : ¬(c.l1 = 0 ∧ c.l2 = 0) := by omega
  rw [compareLong, if_neg unfinished]
  simp only [byte1, address1, length1, byte2, address2, length2, code, comparedTo]

/-- The walk passes over places at which the operands agree. -/
theorem compareLong_add (k n : Nat) (hk : k ≤ max L1 L2)
    (agree : ∀ j < k, paddedByte s pad a L1 j = paddedByte s pad b L2 j) :
    compareLong s pad (k + n) (comparedTo a L1 b L2 0) = compareLong s pad n (comparedTo a L1 b L2 k) := by
  induction k generalizing n with
  | zero => rw [Nat.zero_add]
  | succ k ih =>
    rw [show k + 1 + n = k + (n + 1) by omega, ih _ (by omega) fun j hj => agree j (by omega),
      compareLong_succ s pad a L1 b L2 n k hk, if_pos (agree k k.lt_succ_self)]

/-- The walk ends at the end of the longer operand, or at the first difference. -/
theorem compareLong_eq {k : Nat} (hk : k ≤ max L1 L2)
    (agree : ∀ j < k, paddedByte s pad a L1 j = paddedByte s pad b L2 j)
    (ends : k = max L1 L2 ∨ paddedByte s pad a L1 k ≠ paddedByte s pad b L2 k) :
    compareLong s pad (max L1 L2) (comparedTo a L1 b L2 0) = { comparedTo a L1 b L2 k with
      cc := if k = max L1 L2 then 0
        else orderCode (paddedByte s pad a L1 k).toNat (paddedByte s pad b L2 k).toNat } := by
  have walked (n : Nat) := compareLong_add s pad a L1 b L2 k n hk agree
  by_cases atEnd : k = max L1 L2
  · have done := walked 0
    rw [Nat.add_zero] at done
    rw [if_pos atEnd, ← atEnd, done]
    rfl
  · have differ := ends.resolve_left atEnd
    have differ' : ((paddedByte s pad a L1 k).toNat : Int) ≠ (paddedByte s pad b L2 k).toNat := fun e =>
      differ (BitVec.eq_of_toNat_eq (Int.ofNat_inj.1 e))
    have left := walked (max L1 L2 - k - 1 + 1)
    rw [show k + (max L1 L2 - k - 1 + 1) = max L1 L2 by omega] at left
    rw [if_neg atEnd, left, compareLong_succ s pad a L1 b L2 _ k (by omega), if_neg differ, orderCode, if_neg differ']
    simp only [Int.ofNat_lt]

end Walk

/-- CLCL sets its registers and the condition code to the end of the walk. -/
theorem exec_clcl {r1 r2 : RegNum} {s : State} (even1 : isEven r1 = true) (even2 : isEven r2 = true) {L1 L2 : Nat}
    (length1 : (regLength s (r1 + 1)).toNat = L1) (length2 : (regLength s (r2 + 1)).toNat = L2) {c : LongCompare}
    (walked : compareLong s (padByte s (r2 + 1)) (max L1 L2) (comparedTo (regAddr s r1) L1 (regAddr s r2) L2 0) = c) :
    exec (.clcl r1 r2) s = .next (setCc (setLongRegs s r1 r2 c.a (BitVec.ofNat 24 c.l1) c.b (BitVec.ofNat 24 c.l2)
      (padByte s (r2 + 1))) c.cc) := by
  have start : comparedTo (regAddr s r1) L1 (regAddr s r2) L2 0 = ⟨regAddr s r1, L1, regAddr s r2, L2, 0⟩ := by
    simp only [comparedTo, Nat.zero_min, Nat.sub_zero, offset_zero]
  rw [start] at walked
  subst length1 length2 walked
  exact congrArg finish <| (whenEven_of_even r1 s _ (getLsbD_zero_of_isEven even1)).trans
    (whenEven_of_even r2 s _ (getLsbD_zero_of_isEven even2))

/-- Settles O38: the walk ends at place `k` (`compareLong_eq`), and its end is what the registers are set to. (The name
`compareLong` is the model's walk.) -/
theorem compareLongInstruction : Obligations.CompareLong := by
  intro s r1 r2 even1 even2 a L1 b L2 pad u v k hk agree ends
  have walked := compareLong_eq s pad a L1 b L2 hk agree ends
  have alike : r1 = r2 → offset a (min k L1) = offset b (min k L2) ∧
      BitVec.ofNat 24 (L1 - min k L1) = BitVec.ofNat 24 (L2 - min k L2) ∧
      (getReg s (r1 + 1)).extractLsb' 24 8 = pad := by
    rintro rfl
    exact ⟨rfl, rfl, rfl⟩
  obtain ⟨first, firstLength, second, secondLength⟩ := getReg_setLongRegs s even1 even2 _ _ _ _ pad alike
  exact ⟨_, exec_clcl even1 even2 rfl rfl walked, first, firstLength, second, secondLength, rfl,
    frame_setCc _ [] _ (frame_setLongRegs ..), fun _ => rfl⟩

end Sys2Proof.Machine

/-! Branches (spec/44_branch.md R340 to R350): a branch not taken sets `pc` to the address it holds already, that of the
next sequential instruction, so that every branch is one assignment to `pc`. -/

namespace Sys2Proof.Machine

/-! ## A branch that a condition chooses -/

theorem setPc_self (s : State) : setPc s s.psw.pc = s := rfl

theorem ite_setPc {c d : Prop} [Decidable c] [Decidable d] (same : c ↔ d) (s : State) (a : Addr) :
    (if d then setPc s a else s) = setPc s (if c then a else s.psw.pc) := by
  by_cases taken : c
  · rw [if_pos taken, if_pos (same.1 taken)]
  · rw [if_neg taken, if_neg (mt same.2 taken), setPc_self]

section Conditional

variable {i : Instr} {s : State} {a : Addr} {c d : Prop} [Decidable c] [Decidable d]

theorem setsPc_of_branch (run : exec i s = finish (done (if d then setPc s a else s))) (same : c ↔ d) :
    SetsPc i s (if c then a else s.psw.pc) := by
  rw [ite_setPc same] at run
  exact setsPc_of run

/-- The target `a` is an address the branch computed before it wrote register `r` (R342, R349). -/
theorem setsRegPc_of_branch {r : RegNum} {v : Word}
    (run : exec i s = finish (done (if d then setPc (setReg s r v) a else setReg s r v))) (same : c ↔ d) :
    SetsRegPc i s r v (if c then a else s.psw.pc) := by
  rw [ite_setPc same] at run
  exact setsRegPc_of run

end Conditional

/-! ## The conditions -/

/-- The mask bit of weight 8 selects condition code 0, the one of weight 1 condition code 3 (R340). -/
theorem and_mask_ne_zero_iff (m : RegNum) (c : CC) : (8#4 >>> c.toNat) &&& m ≠ 0 ↔ maskSelects m c = true := by
  decide +revert

/-- `r OR 1` is the odd register of the pair of an even `r`, and an odd `r` itself (R349). -/
theorem or_one_eq (r : RegNum) : r ||| 1 = if isEven r then r + 1 else r := by
  decide +revert

theorem indexLimit_eq (s : State) (r : RegNum) : indexLimit s r = getReg s (if isEven r then r + 1 else r) := by
  rw [indexLimit, or_one_eq]

/-! ## The branch instructions -/

/-- Settles O40: each branch sets `pc` under its own condition, after it has set its register. -/
theorem branchResults : Obligations.BranchResults := by
  intro s r1 r2 r3 x2 b2 d2 taken target next link count sum limit
  have selects : taken ↔ maskSelects r1 s.psw.cc = true := and_mask_ne_zero_iff r1 s.psw.cc
  have limitRead : indexLimit s r3 = limit := indexLimit_eq s r3
  refine ⟨?bc, ?bcr, ?bct, ?bctr, ?bxh, ?bxle, ?bal, ?balr, ?bas, ?basr⟩
  case bc => exact setsPc_of_branch rfl selects
  case bcr => exact setsPc_of_branch rfl (and_congr_right' selects)
  case bct => exact setsRegPc_of_branch rfl Iff.rfl
  case bctr => exact setsRegPc_of_branch rfl Iff.rfl
  case bxh => exact setsRegPc_of_branch rfl (by rw [limitRead])
  case bxle => exact setsRegPc_of_branch rfl (by rw [limitRead])
  case bal => exact setsRegPc_of rfl
  case balr => exact setsRegPc_of_branch rfl Iff.rfl
  case bas => exact setsRegPc_of rfl
  case basr => exact setsRegPc_of_branch rfl Iff.rfl

end Sys2Proof.Machine

/-! Truncation of rational numbers to hexadecimal digits (spec/45_hfp_engine.md R368): the leading digit of a natural
number and of a quotient, and that a number has one truncation. -/

namespace Sys2Proof.Machine

/-! ## Hexadecimal digits -/

/-- A positive number has its leading digit where `hexDigits` says. -/
theorem hexDigits_bounds {n : Nat} (pos : n ≠ 0) : 16 ^ (hexDigits n - 1) ≤ n ∧ n < 16 ^ hexDigits n := by
  have digits : hexDigits n = n.log2 / 4 + 1 := if_neg pos
  have sixteen : ∀ k, 16 ^ k = 2 ^ (4 * k) := fun k => (Nat.pow_mul 2 4 k).symm
  rw [digits, sixteen, sixteen]
  constructor
  · exact (Nat.pow_le_pow_right (by decide) (by omega)).trans (Nat.log2_self_le pos)
  · exact Nat.lt_log2_self.trans_le (Nat.pow_le_pow_right (by decide) (by omega))

theorem hexDigits_pos {n : Nat} (pos : n ≠ 0) : 0 < hexDigits n := by
  rw [hexDigits, if_neg pos]
  exact Nat.succ_pos _

/-- The place of the leading digit is the only one with these bounds. -/
theorem hexDigits_eq {n d : Nat} (low : 16 ^ d ≤ n) (high : n < 16 ^ (d + 1)) : hexDigits n = d + 1 := by
  have pos : n ≠ 0 := (lt_of_lt_of_le (by positivity) low).ne'
  obtain ⟨le, lt⟩ := hexDigits_bounds pos
  have up := (Nat.pow_lt_pow_iff_right (by decide)).1 (low.trans_lt lt)
  have down := (Nat.pow_lt_pow_iff_right (by decide)).1 (le.trans_lt high)
  omega

theorem hexDigits_le {n d : Nat} (high : n < 16 ^ d) : hexDigits n ≤ d := by
  by_cases pos : n = 0
  · simp [pos, hexDigits]
  · have down := (Nat.pow_lt_pow_iff_right (by decide)).1 ((hexDigits_bounds pos).1.trans_lt high)
    omega

/-- Zero digits on the right count. -/
theorem hexDigits_mul_pow {n : Nat} (pos : n ≠ 0) (k : Nat) : hexDigits (n * 16 ^ k) = hexDigits n + k := by
  obtain ⟨low, high⟩ := hexDigits_bounds pos
  have digits := hexDigits_pos pos
  have last : hexDigits n + k = hexDigits n - 1 + k + 1 := by omega
  rw [last]
  apply hexDigits_eq
  · rw [Nat.pow_add]
    exact Nat.mul_le_mul_right _ low
  · rw [← last, Nat.pow_add]
    exact Nat.mul_lt_mul_of_pos_right high (by positivity)

/-! ## Truncation of a rational number (R368) -/

/-- The lead exponent of a quotient of positive numbers. -/
theorem leadExponent_bounds {n d : Nat} (hn : n ≠ 0) (hd : d ≠ 0) :
    (16 : ℚ) ^ (leadExponent n d - 1) ≤ n / d ∧ (n : ℚ) / d < 16 ^ leadExponent n d := by
  obtain ⟨nLow, nHigh⟩ := hexDigits_bounds hn
  obtain ⟨dLow, dHigh⟩ := hexDigits_bounds hd
  have nDigits := hexDigits_pos hn
  have dDigits := hexDigits_pos hd
  have dPos : (0 : ℚ) < d := by positivity
  have power (a b : Nat) : (16 : ℚ) ^ ((a : Int) - b) = 16 ^ a / 16 ^ b := by
    rw [zpow_sub₀ (by norm_num), zpow_natCast, zpow_natCast]
  unfold leadExponent
  dsimp only
  split
  · next above =>
    rw [add_sub_cancel_right, show (hexDigits n : Int) - hexDigits d + 1 = hexDigits n - ((hexDigits d - 1 : Nat) : Int)
      by omega, power, power, div_le_div_iff₀ (by positivity) dPos, div_lt_div_iff₀ dPos (by positivity)]
    constructor
    · rw [mul_comm]
      exact_mod_cast above
    · exact_mod_cast Nat.mul_lt_mul_of_lt_of_le nHigh dLow (by positivity)
  · next below =>
    rw [show (hexDigits n : Int) - hexDigits d - 1 = ((hexDigits n - 1 : Nat) : Int) - hexDigits d by omega,
      power, power, div_le_div_iff₀ (by positivity) dPos, div_lt_div_iff₀ dPos (by positivity)]
    constructor
    · exact_mod_cast Nat.mul_le_mul nLow dHigh.le
    · rw [mul_comm (16 ^ hexDigits n : ℚ)]
      exact_mod_cast not_le.1 below

theorem scaledFloor_eq_floor (n d : Nat) (k : Int) : scaledFloor n d k = ⌊(n : ℚ) / d * 16 ^ k⌋₊ := by
  unfold scaledFloor
  split
  · next up =>
    obtain ⟨m, rfl⟩ := Int.eq_ofNat_of_zero_le up
    rw [← Nat.floor_div_eq_div (K := ℚ), div_mul_eq_mul_div]
    push_cast
    rfl
  · next down =>
    obtain ⟨m, hm⟩ := Int.eq_ofNat_of_zero_le (show 0 ≤ -k by omega)
    rw [← Nat.floor_div_eq_div (K := ℚ), hm, show k = -(m : Int) by omega, zpow_neg, zpow_natCast, ← div_eq_mul_inv,
      div_div]
    push_cast
    rfl

/-- A truncated number lies below the next power of 16 above its leading digit. -/
theorem TruncatesTo.bounds {D : Nat} {r : ℚ} {v : FloatValue} (h : TruncatesTo D r v) (hD : 0 < D) (hr : r ≠ 0) :
    (16 : ℚ) ^ (v.e - 1) ≤ |r| ∧ |r| < 16 ^ v.e := by
  rw [TruncatesTo, if_neg hr] at h
  obtain ⟨-, -, N, -, low, high, below, above⟩ := h
  have scale : (0 : ℚ) < 16 ^ (v.e - D) := by positivity
  have first : (16 : ℚ) ^ (v.e - 1) = (16 ^ (D - 1) : Nat) * 16 ^ (v.e - D) := by
    rw [Nat.cast_pow, Nat.cast_ofNat, ← zpow_natCast, ← zpow_add₀ (by norm_num)]
    congr 1
    omega
  have past : (16 : ℚ) ^ v.e = (16 ^ D : Nat) * 16 ^ (v.e - D) := by
    rw [Nat.cast_pow, Nat.cast_ofNat, ← zpow_natCast, ← zpow_add₀ (by norm_num)]
    congr 1
    omega
  constructor
  · rw [first]
    exact (mul_le_mul_of_nonneg_right (by exact_mod_cast low) scale.le).trans below
  · rw [past]
    exact above.trans_le (mul_le_mul_of_nonneg_right (by exact_mod_cast high) scale.le)

theorem le_of_zpow_bounds {d e : Int} {q : ℚ} (low : (16 : ℚ) ^ (d - 1) ≤ q) (high : q < 16 ^ e) : d ≤ e := by
  have := (zpow_lt_zpow_iff_right₀ (by norm_num : (1 : ℚ) < 16)).1 (low.trans_lt high)
  omega

/-- Truncation has one result. -/
theorem TruncatesTo.unique {D : Nat} {r : ℚ} {v w : FloatValue} (hD : 0 < D) (hv : TruncatesTo D r v)
    (hw : TruncatesTo D r w) : v = w := by
  by_cases hr : r = 0
  · rw [TruncatesTo, if_pos hr] at hv hw
    rw [hv, hw]
  · obtain ⟨vLow, vHigh⟩ := hv.bounds hD hr
    obtain ⟨wLow, wHigh⟩ := hw.bounds hD hr
    have exponent : v.e = w.e := le_antisymm (le_of_zpow_bounds vLow wHigh) (le_of_zpow_bounds wLow vHigh)
    rw [TruncatesTo, if_neg hr] at hv hw
    obtain ⟨vz, vpos, N, vF, -, -, vBelow, vAbove⟩ := hv
    obtain ⟨wz, wpos, M, wF, -, -, wBelow, wAbove⟩ := hw
    have scale : (0 : ℚ) < 16 ^ (w.e - D) := by positivity
    rw [exponent] at vBelow vAbove
    have digits : N = M := by
      have le := lt_of_mul_lt_mul_right (vBelow.trans_lt wAbove) scale.le
      have ge := lt_of_mul_lt_mul_right (wBelow.trans_lt vAbove) scale.le
      norm_cast at le ge
      omega
    obtain ⟨z, pos, F, e⟩ := v
    obtain ⟨z', pos', F', e'⟩ := w
    simp only at vz vpos vF wz wpos wF exponent
    simp only [vz, vpos, vF, wz, wpos, wF, exponent, digits]

end Sys2Proof.Machine

/-! The exact values of the floating-point engine as rational numbers (spec/45_hfp_engine.md R362, R367, R368): `chop`
truncates, so that each arithmetic primitive classifies the truncated result of its operands. -/

namespace Sys2Proof.Machine

/-! ## Exact values as rational numbers -/

/-- The number an exact value stands for. -/
def Exact.val (x : Exact) : ℚ := (if x.neg then -1 else 1) * (x.num / x.den * 16 ^ x.exp)

theorem Exact.abs_val (x : Exact) : |x.val| = x.num / x.den * 16 ^ x.exp := by
  have size : (0 : ℚ) ≤ x.num / x.den * 16 ^ x.exp := by positivity
  unfold Exact.val
  split <;> simp [abs_of_nonneg size]

theorem Exact.val_eq_zero {x : Exact} (hd : x.den ≠ 0) : x.val = 0 ↔ x.num = 0 := by
  rw [← abs_eq_zero, x.abs_val]
  simp [hd, (zpow_pos (by norm_num : (0 : ℚ) < 16) x.exp).ne']

/-- A nonzero exact value has the sign of its flag. -/
theorem Exact.val_pos {x : Exact} (hx : x.val ≠ 0) : 0 < x.val ↔ x.neg = false := by
  have size : (0 : ℚ) < x.num / x.den * 16 ^ x.exp := x.abs_val ▸ abs_pos.2 hx
  unfold Exact.val
  cases x.neg
  · simpa using size
  · simpa using size.le

theorem exact_den (v : FloatValue) : v.exact.den = 1 := by
  unfold FloatValue.exact
  split <;> rfl

theorem exact_num {v : FloatValue} (h : v.z = false) : v.exact.num = v.F := by
  rw [FloatValue.exact, h]
  rfl

@[simp] theorem val_exact (v : FloatValue) : v.exact.val = v.val := by
  obtain ⟨z, pos, F, e⟩ := v
  cases z <;> cases pos <;> simp [FloatValue.exact, Exact.val, FloatValue.val]

theorem Exact.val_opp (x : Exact) : x.opp.val = -x.val := by
  unfold Exact.opp Exact.val
  cases x.neg <;> simp

/-- The signed numerator over a lower exponent is the same number. -/
theorem Exact.val_scaled (x : Exact) {lo : Int} (h : lo ≤ x.exp) : x.val = x.scaled lo / x.den * 16 ^ lo := by
  have scale : (16 : ℚ) ^ x.exp = 16 ^ (x.exp - lo).toNat * 16 ^ lo := by
    rw [← zpow_natCast, Int.toNat_of_nonneg (by omega), ← zpow_add₀ (by norm_num), sub_add_cancel]
  unfold Exact.val Exact.scaled
  rw [scale]
  cases x.neg <;> simp <;> ring

theorem sign_mul_natAbs (t : Int) : (if decide (t < 0) = true then -1 else 1 : ℚ) * (t.natAbs : ℚ) = t := by
  rw [Nat.cast_natAbs]
  by_cases neg : t < 0
  · simp [neg, abs_of_neg neg]
  · simp [neg, abs_of_nonneg (not_lt.1 neg)]

theorem Exact.val_add {x y : Exact} (hx : x.den ≠ 0) (hy : y.den ≠ 0) : (x.add y).val = x.val + y.val := by
  have hx' : (x.den : ℚ) ≠ 0 := by exact_mod_cast hx
  have hy' : (y.den : ℚ) ≠ 0 := by exact_mod_cast hy
  rw [x.val_scaled (min_le_left x.exp y.exp), y.val_scaled (min_le_right x.exp y.exp)]
  unfold Exact.add Exact.val
  dsimp only
  rw [← mul_assoc, ← mul_div_assoc, sign_mul_natAbs]
  push_cast
  field_simp

theorem Exact.val_mul (x y : Exact) : (x.mul y).val = x.val * y.val := by
  unfold Exact.mul Exact.val
  rw [zpow_add₀ (by norm_num)]
  cases x.neg <;> cases y.neg <;> simp <;> ring

theorem Exact.val_div (x y : Exact) : (x.div y).val = x.val / y.val := by
  unfold Exact.div Exact.val
  rw [zpow_sub₀ (by norm_num)]
  cases x.neg <;> cases y.neg <;> simp <;> field_simp

theorem Exact.val_half (x : Exact) : x.half.val = x.val / 2 := by
  unfold Exact.half Exact.val
  push_cast
  ring

/-! ## Chop (R368) -/

/-- `chop` truncates the number of an exact value. -/
theorem truncatesTo_chop {D : Nat} {x : Exact} (hD : 0 < D) (hd : x.den ≠ 0) : TruncatesTo D x.val (chop D x) := by
  by_cases hn : x.num = 0
  · rw [TruncatesTo, if_pos ((Exact.val_eq_zero hd).2 hn), chop, if_pos hn]
  have hx : x.val ≠ 0 := mt (Exact.val_eq_zero hd).1 hn
  obtain ⟨low, high⟩ := leadExponent_bounds hn hd
  rw [TruncatesTo, if_neg hx, chop, if_neg hn, Exact.abs_val]
  generalize leadExponent x.num x.den = lead at low high
  dsimp only
  have shift (a b : Int) : (16 : ℚ) ^ a * 16 ^ b = 16 ^ (a + b) := (zpow_add₀ (by norm_num) a b).symm
  have scale : (0 : ℚ) < 16 ^ (lead + x.exp - D) := by positivity
  have size : (x.num : ℚ) / x.den * 16 ^ x.exp = x.num / x.den * 16 ^ (D - lead) * 16 ^ (lead + x.exp - D) := by
    rw [mul_assoc, shift]
    congr 2
    ring
  have atLeast : (16 ^ (D - 1) : Nat) ≤ (x.num : ℚ) / x.den * 16 ^ (D - lead) := by
    have := mul_le_mul_of_nonneg_right low (zpow_pos (by norm_num : (0 : ℚ) < 16) (D - lead)).le
    rw [shift, show lead - 1 + (D - lead) = ((D - 1 : Nat) : Int) by omega, zpow_natCast] at this
    exact_mod_cast this
  have lessThan : (x.num : ℚ) / x.den * 16 ^ (D - lead) < (16 ^ D : Nat) := by
    have := mul_lt_mul_of_pos_right high (zpow_pos (by norm_num : (0 : ℚ) < 16) (D - lead))
    rw [shift, show lead + (D - lead) = ((D : Nat) : Int) by omega, zpow_natCast] at this
    exact_mod_cast this
  refine ⟨rfl, ?sign, scaledFloor x.num x.den (D - lead), rfl, ?_⟩
  case sign => simp [Exact.val_pos hx]
  rw [scaledFloor_eq_floor, size]
  refine ⟨Nat.le_floor atLeast, (Nat.floor_lt (by positivity)).2 lessThan, ?_, ?_⟩
  · exact mul_le_mul_of_nonneg_right (Nat.floor_le (by positivity)) scale.le
  · exact mul_lt_mul_of_pos_right (Nat.lt_floor_add_one _) scale

theorem chop_eq {D : Nat} {x : Exact} {r : ℚ} {v : FloatValue} (hD : 0 < D) (hd : x.den ≠ 0) (hx : x.val = r)
    (h : TruncatesTo D r v) : chop D x = v :=
  TruncatesTo.unique hD (hx ▸ truncatesTo_chop hD hd) h

/-! ## Operands cut to a precision (R367) -/

@[simp] theorem shortened_long (v : FloatValue) : shortened 14 v = v := by simp [shortened]

@[simp] theorem shortened_z (D : Nat) (v : FloatValue) : (shortened D v).z = v.z := by
  unfold shortened
  split_ifs <;> rfl

@[simp] theorem shortened_pos (D : Nat) (v : FloatValue) : (shortened D v).pos = v.pos := by
  unfold shortened
  split_ifs <;> rfl

theorem shortened_short (v : FloatValue) :
    shortened 6 v = if v.z then v else { v with F := v.F / 2 ^ 32 * 2 ^ 32 } := rfl

theorem val_eq_zero_iff (v : FloatValue) : v.val = 0 ↔ v.z = true ∨ v.F = 0 := by
  have scale : (16 : ℚ) ^ (v.e - 14) ≠ 0 := (zpow_pos (by norm_num) _).ne'
  unfold FloatValue.val
  cases v.z <;> cases v.pos <;> simp [scale]

/-! ## The primitives as truncations -/

section Primitives

variable {pm : BitVec 4} {D : Nat} {a b v : FloatValue} {x y : ℚ}

theorem addSub_of_sum {subtract normalized : Bool} (hD : 0 < D) (ha : (shortened D a).val = x)
    (hb : (shortened D b).val = y) (h : TruncatesTo D (bif subtract then x - y else x + y) v) :
    addSub pm D a b subtract normalized = classify pm v true normalized true a.z := by
  have ofSum {second : Exact} (hd : second.den = 1) (sum : x + second.val = bif subtract then x - y else x + y) :
      chop D ((shortened D a).exact.add second) = v := by
    refine chop_eq hD (by simp [Exact.add, exact_den, hd]) ?_ h
    rw [Exact.val_add (by simp [exact_den]) (by simp [hd]), val_exact, ha, sum]
  refine congrArg (classify pm · true normalized true a.z) ?_
  cases subtract with
  | false => exact ofSum (exact_den _) ((congrArg (x + ·) ((val_exact _).trans hb)))
  | true => exact ofSum (exact_den _) (by rw [if_pos rfl, Exact.val_opp, val_exact, hb, ← sub_eq_add_neg]; rfl)

theorem multiplyFp_of_product {Dop : Nat} (hD : 0 < D) (ha : (shortened Dop a).val = x) (hb : (shortened Dop b).val = y)
    (h : TruncatesTo D (x * y) v) : multiplyFp pm Dop D a b = classify pm v false true false false := by
  have hd : ((shortened Dop a).exact.mul (shortened Dop b).exact).den ≠ 0 := by
    simp [Exact.mul, exact_den]
  have product := Exact.val_mul (shortened Dop a).exact (shortened Dop b).exact
  rw [val_exact, val_exact, ha, hb] at product
  exact congrArg (classify pm · false true false false) (chop_eq hD hd product h)

theorem divideFp_of_zero (h : b.z = true) : divideFp pm D a b = ⟨none, none, some .floatDivide⟩ := if_pos h

theorem divideFp_of_quotient (hD : 0 < D) (ha : (shortened D a).val = x) (hb : (shortened D b).val = y) (hy : y ≠ 0)
    (h : TruncatesTo D (x / y) v) : divideFp pm D a b = classify pm v false true false false := by
  obtain ⟨hz, hF⟩ := not_or.1 (mt (val_eq_zero_iff (shortened D b)).2 (hb.trans_ne hy))
  have hd : ((shortened D a).exact.div (shortened D b).exact).den ≠ 0 :=
    Nat.mul_ne_zero ((exact_den _).trans_ne one_ne_zero) (by rwa [exact_num (by simpa using hz)])
  have quotient := Exact.val_div (shortened D a).exact (shortened D b).exact
  rw [val_exact, val_exact, ha, hb] at quotient
  rw [divideFp, if_neg (by simpa using hz)]
  exact congrArg (classify pm · false true false false) (chop_eq hD hd quotient h)

theorem halve_of_half (hD : 0 < D) (hb : (shortened D b).val = y) (h : TruncatesTo D (y / 2) v) :
    halve pm D b = classify pm v false true false false := by
  have hd : (shortened D b).exact.half.den ≠ 0 := by
    simp [Exact.half, exact_den]
  have half := Exact.val_half (shortened D b).exact
  rw [val_exact, hb] at half
  exact congrArg (classify pm · false true false false) (chop_eq hD hd half h)

end Primitives

end Sys2Proof.Machine

/-! Memory images of floating-point values (spec/45_hfp_engine.md R362 to R366): the fields of an image, normalization,
and the two stores. -/

namespace Sys2Proof.Machine

/-! ## FloatValues of R362 -/

theorem FloatValue.wf_iff_of_zero {v : FloatValue} (h : v.z = true) : v.wf = true ↔ v.F = 0 ∧ v.e = -64 := by
  simp [FloatValue.wf, h]

theorem FloatValue.wf_iff_of_nonzero {v : FloatValue} (h : v.z = false) :
    v.wf = true ↔ 2 ^ 52 ≤ v.F ∧ v.F < 2 ^ 56 ∧ -77 ≤ v.e ∧ v.e ≤ 63 := by
  simp [FloatValue.wf, h, and_assoc]

/-- Cutting to a precision keeps the leading digit, and with it a FloatValue of R362. -/
theorem shortened_wf (D : Nat) {v : FloatValue} (h : v.wf = true) : (shortened D v).wf = true := by
  cases hz : v.z with
  | true => rwa [shortened, if_pos hz]
  | false =>
    obtain ⟨low, high, bottom, top⟩ := (FloatValue.wf_iff_of_nonzero hz).1 h
    rw [shortened, if_neg (by simp [hz])]
    split
    · have lead : 2 ^ 52 ≤ v.F / 2 ^ 32 * 2 ^ 32 := by omega
      have less : v.F / 2 ^ 32 * 2 ^ 32 < 2 ^ 56 := (Nat.div_mul_le_self _ _).trans_lt high
      exact (FloatValue.wf_iff_of_nonzero (v := { v with F := v.F / 2 ^ 32 * 2 ^ 32 }) hz).2 ⟨lead, less, bottom, top⟩
    · exact h

theorem val_ne_zero {v : FloatValue} (h : v.wf = true) (hz : v.z = false) : v.val ≠ 0 := by
  obtain ⟨low, -⟩ := (FloatValue.wf_iff_of_nonzero hz).1 h
  rw [Ne, val_eq_zero_iff, hz]
  simp only [Bool.false_eq_true, false_or]
  omega

/-- A value that is not zero stays so when it is cut. -/
theorem val_shortened_ne_zero (D : Nat) {v : FloatValue} (h : v.wf = true) (hz : v.z = false) :
    (shortened D v).val ≠ 0 := val_ne_zero (shortened_wf D h) (by rw [shortened_z, hz])

/-! ## The fields of an image (R363, R365) -/

/-- The sign bit, the characteristic and the fraction of an image are those it was put together from. -/
theorem image_fields (sign : BitVec 1) (c : BitVec 7) (fraction : BitVec 56) :
    let img : DWord := sign ++ c ++ fraction
    img.extractLsb' 63 1 = sign ∧ img.extractLsb' 56 7 = c ∧ img.extractLsb' 0 56 = fraction := by
  dsimp only
  refine ⟨?_, ?_, ?_⟩ <;>
    simp (disch := omega) only [BitVec.extractLsb'_append_eq_of_le, BitVec.extractLsb'_append_eq_of_add_le,
      BitVec.extractLsb'_eq_self, Nat.reduceSub]

/-- The characteristic that `packLong` gives a value (R365). -/
def packedCharacteristic (v : FloatValue) : Nat := if v.z then 0 else (v.e + 64).toNat

/-- The fraction that `packLong` gives a value (R365). -/
def packedFraction (v : FloatValue) : Nat := if v.z then 0 else v.F / 16 ^ (-64 - v.e).toNat

/-- What `packLong` gives a value of R362, at every exponent. -/
theorem packLong_eq {v : FloatValue} (h : v.wf = true) :
    packLong v = BitVec.ofBool (!v.pos) ++ BitVec.ofNat 7 (packedCharacteristic v) ++
      BitVec.ofNat 56 (packedFraction v) ∧ packedCharacteristic v < 2 ^ 7 ∧ packedFraction v < 2 ^ 56 := by
  unfold packLong packedCharacteristic packedFraction
  cases hz : v.z with
  | true =>
    dsimp only
    rw [if_pos rfl, if_pos rfl, if_pos rfl]
    exact ⟨by cases v.pos <;> decide, by decide, by decide⟩
  | false =>
    obtain ⟨-, high, -, top⟩ := (FloatValue.wf_iff_of_nonzero hz).1 h
    refine ⟨?_, by rw [if_neg Bool.false_ne_true]; omega, (Nat.div_le_self _ _).trans_lt high⟩
    dsimp only
    by_cases below : v.e < -64
    · rw [show (v.e + 64).toNat = 0 by omega]
      simp only [below, Bool.false_eq_true, if_true, if_false]
    · rw [show (-64 - v.e).toNat = 0 by omega, show v.e + 64 = ((v.e + 64).toNat : Int) by omega]
      simp only [below, Bool.false_eq_true, if_false, pow_zero, Nat.div_one, BitVec.ofInt_natCast, Int.toNat_natCast]

/-- The fields of the image of a value. -/
theorem packLong_fields {v : FloatValue} (h : v.wf = true) :
    (packLong v).extractLsb' 63 1 = BitVec.ofBool (!v.pos) ∧
      ((packLong v).extractLsb' 56 7).toNat = packedCharacteristic v ∧
      ((packLong v).extractLsb' 0 56).toNat = packedFraction v := by
  obtain ⟨img, characteristic, fraction⟩ := packLong_eq h
  obtain ⟨hs, hc, hf⟩ := image_fields (BitVec.ofBool (!v.pos)) (BitVec.ofNat 7 (packedCharacteristic v))
    (BitVec.ofNat 56 (packedFraction v))
  rw [img, hs, hc, hf, BitVec.toNat_ofNat, BitVec.toNat_ofNat, Nat.mod_eq_of_lt characteristic,
    Nat.mod_eq_of_lt fraction]
  exact ⟨rfl, rfl, rfl⟩

/-! ## Unpacking (R363, R364) -/

/-- The normalized value of a sign, a characteristic and a fraction. -/
def normalized (pos : Bool) (characteristic fraction : Nat) : FloatValue :=
  if fraction = 0 then ⟨true, pos, 0, -64⟩
  else
    ⟨false, pos, fraction * 16 ^ (14 - hexDigits fraction),
      (characteristic : Int) - 64 - (14 - hexDigits fraction : Nat)⟩

theorem unpackLong_eq (w : DWord) :
    unpackLong w = normalized (!w.getLsbD 63) (w.extractLsb' 56 7).toNat (w.extractLsb' 0 56).toNat := rfl

theorem normalized_of_nonzero {pos : Bool} {c n : Nat} (hn : n ≠ 0) :
    normalized pos c n = ⟨false, pos, n * 16 ^ (14 - hexDigits n), (c : Int) - 64 - (14 - hexDigits n : Nat)⟩ :=
  if_neg hn

/-- The leading digit of a normalized fraction is its fourteenth from the right. -/
theorem normalized_fraction_bounds {n : Nat} (hn : n ≠ 0) (h : n < 2 ^ 56) :
    2 ^ 52 ≤ n * 16 ^ (14 - hexDigits n) ∧ n * 16 ^ (14 - hexDigits n) < 2 ^ 56 := by
  have digits := hexDigits_le (d := 14) (by simpa using h)
  have pos := hexDigits_pos hn
  have scaled := hexDigits_mul_pow hn (14 - hexDigits n)
  obtain ⟨low, high⟩ := hexDigits_bounds (n := n * 16 ^ (14 - hexDigits n)) (by positivity)
  rw [scaled, show hexDigits n + (14 - hexDigits n) = 14 by omega] at low high
  exact ⟨by simpa using low, by simpa using high⟩

theorem normalized_wf {pos : Bool} {c n : Nat} (hc : c < 2 ^ 7) (hn : n < 2 ^ 56) : (normalized pos c n).wf = true := by
  by_cases zero : n = 0
  · rw [normalized, if_pos zero]
    rfl
  · have digits := hexDigits_pos zero
    obtain ⟨low, high⟩ := normalized_fraction_bounds zero hn
    rw [normalized_of_nonzero zero, FloatValue.wf_iff_of_nonzero rfl]
    exact ⟨low, high, by dsimp only; omega, by dsimp only; omega⟩

/-- Unpacking gives a FloatValue of R362. -/
theorem unpackLong_wf (w : DWord) : (unpackLong w).wf = true := normalized_wf (BitVec.isLt _) (BitVec.isLt _)

theorem unpackShort_wf (w : Word) : (unpackShort w).wf = true := unpackLong_wf _

/-- Normalization keeps the number. -/
theorem val_normalized (pos : Bool) (c n : Nat) :
    (normalized pos c n).val = (if pos then 1 else -1) * (n : ℚ) * 16 ^ ((c : Int) - 64 - 14) := by
  by_cases zero : n = 0
  · rw [normalized, if_pos zero, zero]
    simp [FloatValue.val]
  · rw [normalized_of_nonzero zero]
    unfold FloatValue.val
    generalize 14 - hexDigits n = k
    dsimp only
    rw [if_neg Bool.false_ne_true, show (c : Int) - 64 - k - 14 = (c - 64 - 14) - k by ring, zpow_sub₀ (by norm_num),
      zpow_natCast]
    push_cast
    field_simp

/-- Packing and unpacking a value whose fraction loses no digit gives it back. -/
theorem unpackLong_packLong {v : FloatValue} (h : v.wf = true) (lossless : 16 ^ (-64 - v.e).toNat ∣ v.F) :
    unpackLong (packLong v) = v := by
  obtain ⟨hs, hc, hf⟩ := packLong_fields h
  have sign : (packLong v).getLsbD 63 = !v.pos := by
    have := congrArg (BitVec.getLsbD · 0) hs
    simpa using this
  rw [unpackLong_eq, hc, hf, sign, Bool.not_not, packedCharacteristic, packedFraction]
  obtain ⟨z, pos, F, e⟩ := v
  cases z with
  | true =>
    obtain ⟨hF, he⟩ := (FloatValue.wf_iff_of_zero rfl).1 h
    dsimp only at hF he
    rw [hF, he]
    rfl
  | false =>
    obtain ⟨low, high, bottom, top⟩ := (FloatValue.wf_iff_of_nonzero rfl).1 h
    obtain ⟨n, hn⟩ := lossless
    dsimp only at hn low high bottom top ⊢
    have nonzero : n ≠ 0 := by rintro rfl; omega
    have digits : hexDigits F = 13 + 1 := hexDigits_eq (by simpa using low) (by simpa using high)
    rw [hn, Nat.mul_comm, hexDigits_mul_pow nonzero] at digits
    rw [if_neg Bool.false_ne_true, if_neg Bool.false_ne_true, hn, Nat.mul_div_cancel_left _ (by positivity),
      normalized_of_nonzero nonzero, show 14 - hexDigits n = (-64 - e).toNat by omega, Nat.mul_comm]
    congr 1
    omega

/-- An unpacked fraction is a multiple of the digits that an exponent below -64 takes from it. -/
theorem packLong_loses_nothing (w : DWord) : 16 ^ (-64 - (unpackLong w).e).toNat ∣ (unpackLong w).F := by
  rw [unpackLong_eq]
  generalize (w.extractLsb' 56 7).toNat = c
  generalize (w.extractLsb' 0 56).toNat = n
  by_cases zero : n = 0
  · rw [normalized, if_pos zero]
    exact dvd_zero _
  · rw [normalized_of_nonzero zero]
    exact (Nat.pow_dvd_pow 16 (by dsimp only; omega)).trans (Nat.dvd_mul_left _ _)

/-- A short operand from storage has no digits past the sixth (R364, R367). -/
@[simp] theorem shortened_unpackShort (w : Word) : shortened 6 (unpackShort w) = unpackShort w := by
  have zeros : 2 ^ 32 ∣ ((w ++ 0#32 : DWord).extractLsb' 0 56).toNat := by
    rw [BitVec.extractLsb'_toNat, BitVec.toNat_append, Nat.shiftRight_zero, Nat.dvd_mod_iff (by decide)]
    simp [Nat.shiftLeft_eq]
  have kept : 2 ^ 32 ∣ (unpackShort w).F := by
    rw [unpackShort, unpackLong_eq, normalized]
    split
    · exact dvd_zero _
    · exact zeros.mul_right _
  rw [shortened_short, Nat.div_mul_cancel kept]
  exact ite_self _

/-! ## Stores -/

theorem exec_std {r1 x2 b2 : RegNum} {d2 : Disp} {s : State} {f : FReg} (hf : fregOf r1 = some f) :
    exec (.std r1 x2 b2 d2) s =
      finish (done (writeField s (eax s x2 b2 d2) (bytesBE 8 (packLong (getFpr s f)).toNat))) := by
  rw [← writeBE_eq_writeField]
  exact congrArg finish (withFpr_of_some _ _ _ _ hf)

theorem exec_ste {r1 x2 b2 : RegNum} {d2 : Disp} {s : State} {f : FReg} (hf : fregOf r1 = some f) :
    exec (.ste r1 x2 b2 d2) s =
      finish (done (writeField s (eax s x2 b2 d2) (bytesBE 4 ((packLong (getFpr s f)).toNat / 2 ^ 32)))) := by
  have high : (packShort (getFpr s f)).toNat = (packLong (getFpr s f)).toNat / 2 ^ 32 := by
    rw [packShort, BitVec.extractLsb'_toNat, Nat.shiftRight_eq_div_pow]
    exact Nat.mod_eq_of_lt (Nat.div_lt_of_lt_mul (packLong (getFpr s f)).isLt)
  rw [← writeBE_eq_writeField, ← high]
  exact congrArg finish (withFpr_of_some _ _ _ _ hf)

/-- Settles O46: the fields of an image are those `packLong` puts together, and normalization keeps the number. -/
theorem floatImages : Obligations.FloatImages := by
  refine ⟨?stores, ?fields, ?packed, ?unpacked, fun _ => rfl⟩
  case stores =>
    intro s r1 x2 b2 d2 f hs hf img
    exact ⟨stores_of hs (by simp) (exec_std hf), stores_of hs (by simp) (exec_ste hf)⟩
  case fields =>
    intro v hv
    obtain ⟨sign, characteristic, fraction⟩ := packLong_fields hv
    dsimp only
    rw [sign, characteristic, fraction, packedCharacteristic, packedFraction]
    refine ⟨by cases v.pos <;> rfl, fun hz => by simp [hz], fun hz low high => ?_, fun hz below => ?_⟩
    · rw [hz, if_neg Bool.false_ne_true, if_neg Bool.false_ne_true, show (-64 - v.e).toNat = 0 by omega]
      exact ⟨by omega, by simp⟩
    · rw [hz, if_neg Bool.false_ne_true, if_neg Bool.false_ne_true, Nat.pow_mul 2 4]
      exact ⟨by omega, rfl⟩
  case packed =>
    intro v hv low
    refine unpackLong_packLong hv ?_
    rw [show (-64 - v.e).toNat = 0 by omega]
    exact one_dvd _
  case unpacked =>
    intro w
    have top : w.msb = w.getLsbD 63 := BitVec.msb_eq_getLsbD_last w
    refine ⟨unpackLong_packLong (unpackLong_wf w) (packLong_loses_nothing w), unpackLong_wf w, ?sign, ?value⟩
    case sign =>
      rw [unpackLong_eq, normalized, top]
      split <;> rfl
    case value =>
      rw [unpackLong_eq, val_normalized, top]
      cases w.getLsbD 63 <;> rfl

end Sys2Proof.Machine

/-! The floating-point arithmetic instructions (spec/45_hfp_engine.md R370 to R375): what a classified result leaves,
and the tables of the instructions that classify one. -/

namespace Sys2Proof.Machine

/-! ## Classification of a truncated result (R370) -/

section Classify

variable {pm : BitVec 4} {v : FloatValue} {setsCC uEnable sigCheck firstWasZero : Bool}

theorem classify_of_inRange (hz : v.z = false) (low : -64 ≤ v.e) (high : v.e ≤ 63) :
    classify pm v setsCC uEnable sigCheck firstWasZero =
      ⟨some v, if setsCC then some (ccFloat v) else none, none⟩ := by
  simp [classify, hz, not_lt.2 low, not_lt.2 high]

theorem classify_of_overflow (hz : v.z = false) (above : 63 < v.e) :
    classify pm v setsCC uEnable sigCheck firstWasZero =
      ⟨some { v with e := v.e - 128 }, if setsCC then some (ccFloat v) else none, some .exponentOverflow⟩ := by
  simp [classify, hz, above]

theorem classify_of_underflow (hz : v.z = false) (under : v.e < -64) (enabled : uEnable = true)
    (mask : pm.getLsbD 1 = true) :
    classify pm v setsCC uEnable sigCheck firstWasZero =
      ⟨some { v with e := v.e + 128 }, if setsCC then some (ccFloat v) else none, some .exponentUnderflow⟩ := by
  simp [classify, hz, under, show ¬63 < v.e by omega, enabled, mask]

theorem classify_of_trueZero (hz : v.z = false) (under : v.e < -64)
    (masked : uEnable = false ∨ pm.getLsbD 1 = false) :
    classify pm v setsCC uEnable sigCheck firstWasZero =
      ⟨some .zero, if setsCC then some 0 else none, none⟩ := by
  have off : (uEnable && pm.getLsbD 1) = false := Bool.and_eq_false_iff.2 masked
  simp only [classify, hz, under, show ¬63 < v.e by omega, off, Bool.false_eq_true, if_true, if_false]
  rfl

/-- A zero result: a significance condition, where the primitive has one and the mask and the open parameter let it. -/
theorem classify_of_zero (hz : v.z = true) :
    classify pm v setsCC uEnable sigCheck firstWasZero =
      ⟨some v, if setsCC then some (ccFloat v) else none,
        if sigCheck && pm.getLsbD 0 && (!firstWasZero || Config.sigOnZeroFirstOperand) then some .significance
        else none⟩ := if_pos hz

/-- A zero result raises nothing, where the primitive checks no significance or the mask bit is 0. -/
theorem classify_of_quietZero (hz : v.z = true) (quiet : sigCheck = false ∨ pm.getLsbD 0 = false) :
    classify pm v setsCC uEnable sigCheck firstWasZero =
      ⟨some v, if setsCC then some (ccFloat v) else none, none⟩ := by
  have off : (sigCheck && pm.getLsbD 0) = false := Bool.and_eq_false_iff.2 quiet
  rw [classify_of_zero hz, off]
  rfl

end Classify

/-! ## The operands of an instruction (R401) -/

/-- The instruction applies a primitive to its first operand, the register `f`, and the second operand `b`. -/
def Applies (i : Instr) (s : State) (f : FReg) (b : FloatValue) (op : FloatValue → FloatValue → FpResult) : Prop :=
  exec i s = finish (applyFp s f (op (getFpr s f) b))

section Operands

variable {i : Instr} {s : State} {r1 r2 x2 b2 : RegNum} {d2 : Disp} {f g : FReg}
  {op : FloatValue → FloatValue → FpResult}

theorem applies_register (hf : fregOf r1 = some f) (hg : fregOf r2 = some g) (run : exec i s = fpRR r1 r2 s op) :
    Applies i s f (getFpr s g) op := by
  rw [Applies, run, fpRR, withFpr_of_some _ _ _ _ hf, withFpr_of_some _ _ _ _ hg]

theorem applies_long (hf : fregOf r1 = some f) (run : exec i s = fpRXLong r1 x2 b2 d2 s op) :
    Applies i s f (unpackLong (read64 s (eax s x2 b2 d2))) op :=
  run.trans (congrArg finish (withFpr_of_some _ _ _ _ hf))

theorem applies_short (hf : fregOf r1 = some f) (run : exec i s = fpRXShort r1 x2 b2 d2 s op) :
    Applies i s f (unpackShort (read32 s (eax s x2 b2 d2))) op :=
  run.trans (congrArg finish (withFpr_of_some _ _ _ _ hf))

end Operands

/-! ## Instructions that classify a truncated number -/

/-- The instruction classifies the number `r` cut to `D` digits, as an add or subtract does with `setsCC`, else as the
other operations do (R370). -/
def Classifies (i : Instr) (s : State) (f : FReg) (D : Nat) (r : ℚ) (setsCC uEnable : Bool) : Prop :=
  ∀ v, TruncatesTo D r v →
    exec i s = finish (applyFp s f (classify s.psw.pm v setsCC uEnable setsCC (setsCC && (getFpr s f).z)))

section Classifies

variable {i : Instr} {s : State} {f : FReg} {D : Nat} {r x y : ℚ} {b v : FloatValue} {setsCC uEnable : Bool}

theorem classifies_of_sum (h : Applies i s f b fun a b => addSub s.psw.pm D a b false uEnable) (hD : 0 < D)
    (hx : (shortened D (getFpr s f)).val = x) (hy : (shortened D b).val = y) :
    Classifies i s f D (x + y) true uEnable :=
  fun _ hv => h.trans (congrArg (finish <| applyFp s f ·) (addSub_of_sum (subtract := false) hD hx hy hv))

theorem classifies_of_difference (h : Applies i s f b fun a b => addSub s.psw.pm D a b true uEnable) (hD : 0 < D)
    (hx : (shortened D (getFpr s f)).val = x) (hy : (shortened D b).val = y) :
    Classifies i s f D (x - y) true uEnable :=
  fun _ hv => h.trans (congrArg (finish <| applyFp s f ·) (addSub_of_sum (subtract := true) hD hx hy hv))

theorem classifies_of_product {Dop : Nat} (h : Applies i s f b fun a b => multiplyFp s.psw.pm Dop D a b) (hD : 0 < D)
    (hx : (shortened Dop (getFpr s f)).val = x) (hy : (shortened Dop b).val = y) :
    Classifies i s f D (x * y) false true :=
  fun _ hv => h.trans (congrArg (finish <| applyFp s f ·) (multiplyFp_of_product hD hx hy hv))

theorem classifies_of_quotient (h : Applies i s f b fun a b => divideFp s.psw.pm D a b) (hD : 0 < D)
    (hx : (shortened D (getFpr s f)).val = x) (hy : (shortened D b).val = y) (nonzero : y ≠ 0) :
    Classifies i s f D (x / y) false true :=
  fun _ hv => h.trans (congrArg (finish <| applyFp s f ·) (divideFp_of_quotient hD hx hy nonzero hv))

theorem classifies_of_half (h : Applies i s f b fun _ b => halve s.psw.pm D b) (hD : 0 < D)
    (hy : (shortened D b).val = y) : Classifies i s f D (y / 2) false true :=
  fun _ hv => h.trans (congrArg (finish <| applyFp s f ·) (halve_of_half hD hy hv))

/-- A result in range: the value and, for an add or subtract, its sign. -/
theorem Classifies.setsFprCc (h : Classifies i s f D r true uEnable) (zero : v.z = true → s.psw.pm.getLsbD 0 = false)
    (range : v.z = false → -64 ≤ v.e ∧ v.e ≤ 63) (hv : TruncatesTo D r v) : SetsFprCc i s f v (floatCode v) := by
  apply setsFprCc_of
  rw [h v hv]
  cases hz : v.z with
  | true => rw [classify_of_quietZero hz (.inr (zero hz))]; rfl
  | false =>
    obtain ⟨low, high⟩ := range hz
    rw [classify_of_inRange hz low high]; rfl

theorem Classifies.setsFpr (h : Classifies i s f D r false uEnable) (range : v.z = false → -64 ≤ v.e ∧ v.e ≤ 63)
    (hv : TruncatesTo D r v) : SetsFpr i s f v := by
  apply setsFpr_of
  rw [h v hv]
  cases hz : v.z with
  | true => rw [classify_of_quietZero hz (.inl rfl)]; rfl
  | false =>
    obtain ⟨low, high⟩ := range hz
    rw [classify_of_inRange hz low high]; rfl

/-- The state in which a result with an exception leaves the instruction, before the interruption. -/
def classified (s : State) (f : FReg) (w v : FloatValue) (setsCC : Bool) : State :=
  bif setsCC then setCc (setFpr s f w) (floatCode v) else setFpr s f w

theorem Classifies.overflow (h : Classifies i s f D r setsCC uEnable) (hz : v.z = false) (hv : TruncatesTo D r v)
    (above : 63 < v.e) :
    exec i s = .next (programInterrupt (classified s f { v with e := v.e - 128 } v setsCC) .exponentOverflow) := by
  rw [h v hv, classify_of_overflow hz above]
  cases setsCC <;> exact finish_interrupts _ .exponentOverflow rfl rfl

theorem Classifies.underflow (h : Classifies i s f D r setsCC uEnable) (hz : v.z = false) (hv : TruncatesTo D r v)
    (under : v.e < -64) (enabled : uEnable = true) (mask : s.psw.pm.getLsbD 1 = true) :
    exec i s = .next (programInterrupt (classified s f { v with e := v.e + 128 } v setsCC) .exponentUnderflow) := by
  rw [h v hv, classify_of_underflow hz under enabled mask]
  cases setsCC <;> exact finish_interrupts _ .exponentUnderflow rfl rfl

theorem Classifies.setsZeroCc (h : Classifies i s f D r true uEnable) (hz : v.z = false) (hv : TruncatesTo D r v)
    (under : v.e < -64) (masked : uEnable = false ∨ s.psw.pm.getLsbD 1 = false) : SetsFprCc i s f .zero 0 := by
  apply setsFprCc_of
  rw [h v hv, classify_of_trueZero hz under masked]
  rfl

theorem Classifies.setsZero (h : Classifies i s f D r false uEnable) (hz : v.z = false) (hv : TruncatesTo D r v)
    (under : v.e < -64) (masked : s.psw.pm.getLsbD 1 = false) : SetsFpr i s f .zero := by
  apply setsFpr_of
  rw [h v hv, classify_of_trueZero hz under (.inr masked)]
  rfl

/-- A zero sum or difference with the significance mask bit 1. -/
theorem Classifies.zeroSum (h : Classifies i s f D 0 true uEnable) (mask : s.psw.pm.getLsbD 0 = true) :
    let u := setCc (setFpr s f .zero) 0
    exec i s =
      .next (if (getFpr s f).z && !Config.sigOnZeroFirstOperand then u else programInterrupt u .significance) := by
  have zero : TruncatesTo D 0 .zero := by rw [TruncatesTo, if_pos rfl]
  rw [h .zero zero, classify_of_zero rfl, mask]
  cases (getFpr s f).z <;> cases Config.sigOnZeroFirstOperand <;> rfl

end Classifies

/-! ## The tables of the arithmetic instructions -/

/-- The adds and subtracts of two registers: precision, result, and whether it is normalized (R371). -/
def registerSums (s : State) (r1 r2 : RegNum) (f g : FReg) : List (Instr × Nat × ℚ × Bool) :=
  let a := (getFpr s f).val
  let b := (getFpr s g).val
  let sa := (shortened 6 (getFpr s f)).val
  let sb := (shortened 6 (getFpr s g)).val
  [(.adr r1 r2, 14, a + b, true), (.sdr r1 r2, 14, a - b, true), (.awr r1 r2, 14, a + b, false),
    (.swr r1 r2, 14, a - b, false), (.aer r1 r2, 6, sa + sb, true), (.ser r1 r2, 6, sa - sb, true),
    (.aur r1 r2, 6, sa + sb, false), (.sur r1 r2, 6, sa - sb, false)]

/-- The adds and subtracts with an operand in storage. -/
def storageSums (s : State) (r1 x2 b2 : RegNum) (d2 : Disp) (f : FReg) : List (Instr × Nat × ℚ × Bool) :=
  let a := (getFpr s f).val
  let b := (unpackLong (read64 s (eax s x2 b2 d2))).val
  let sa := (shortened 6 (getFpr s f)).val
  let sb := (unpackShort (read32 s (eax s x2 b2 d2))).val
  [(.ad r1 x2 b2 d2, 14, a + b, true), (.sd r1 x2 b2 d2, 14, a - b, true), (.aw r1 x2 b2 d2, 14, a + b, false),
    (.sw r1 x2 b2 d2, 14, a - b, false), (.ae r1 x2 b2 d2, 6, sa + sb, true), (.se r1 x2 b2 d2, 6, sa - sb, true),
    (.au r1 x2 b2 d2, 6, sa + sb, false), (.su r1 x2 b2 d2, 6, sa - sb, false)]

section Tables

variable {s : State} {r1 r2 x2 b2 : RegNum} {d2 : Disp} {f g : FReg}

theorem val_shortened_long (v : FloatValue) : (shortened 14 v).val = v.val := congrArg _ (shortened_long v)

theorem val_shortened_unpackShort (w : Word) : (shortened 6 (unpackShort w)).val = (unpackShort w).val :=
  congrArg _ (shortened_unpackShort w)

theorem registerSums_classify (hf : fregOf r1 = some f) (hg : fregOf r2 = some g) :
    ∀ p ∈ registerSums s r1 r2 f g, Classifies p.1 s f p.2.1 p.2.2.1 true p.2.2.2 := by
  have first := val_shortened_long (getFpr s f)
  have second := val_shortened_long (getFpr s g)
  simp only [registerSums, List.forall_mem_cons]
  exact ⟨classifies_of_sum (applies_register hf hg rfl) (by decide) first second,
    classifies_of_difference (applies_register hf hg rfl) (by decide) first second,
    classifies_of_sum (applies_register hf hg rfl) (by decide) first second,
    classifies_of_difference (applies_register hf hg rfl) (by decide) first second,
    classifies_of_sum (applies_register hf hg rfl) (by decide) rfl rfl,
    classifies_of_difference (applies_register hf hg rfl) (by decide) rfl rfl,
    classifies_of_sum (applies_register hf hg rfl) (by decide) rfl rfl,
    classifies_of_difference (applies_register hf hg rfl) (by decide) rfl rfl, List.forall_mem_nil _⟩

theorem storageSums_classify (hf : fregOf r1 = some f) :
    ∀ p ∈ storageSums s r1 x2 b2 d2 f, Classifies p.1 s f p.2.1 p.2.2.1 true p.2.2.2 := by
  have first := val_shortened_long (getFpr s f)
  have long := val_shortened_long (unpackLong (read64 s (eax s x2 b2 d2)))
  have short := val_shortened_unpackShort (read32 s (eax s x2 b2 d2))
  simp only [storageSums, List.forall_mem_cons]
  exact ⟨classifies_of_sum (applies_long hf rfl) (by decide) first long,
    classifies_of_difference (applies_long hf rfl) (by decide) first long,
    classifies_of_sum (applies_long hf rfl) (by decide) first long,
    classifies_of_difference (applies_long hf rfl) (by decide) first long,
    classifies_of_sum (applies_short hf rfl) (by decide) rfl short,
    classifies_of_difference (applies_short hf rfl) (by decide) rfl short,
    classifies_of_sum (applies_short hf rfl) (by decide) rfl short,
    classifies_of_difference (applies_short hf rfl) (by decide) rfl short, List.forall_mem_nil _⟩

end Tables

/-- Settles O47: an add or subtract classifies the truncated sum or difference of its operands. -/
theorem floatAddSubtract : Obligations.FloatAddSubtract := by
  intro s r1 r2 x2 b2 d2 f g v hf zero range a m sa sm
  have sets {i : Instr} {D : Nat} {r : ℚ} {u : Bool} (h : Classifies i s f D r true u) :
      TruncatesTo D r v → SetsFprCc i s f v (floatCode v) := h.setsFprCc zero range
  have storage := storageSums_classify (s := s) (x2 := x2) (b2 := b2) (d2 := d2) hf
  simp only [storageSums, List.forall_mem_cons] at storage ⊢
  obtain ⟨ad, sd, aw, sw, ae, se, au, su, -⟩ := storage
  refine ⟨⟨sets ad, sets aw, sets sd, sets sw, List.forall_mem_nil _⟩,
    ⟨sets ae, sets au, sets se, sets su, List.forall_mem_nil _⟩, fun hg => ?_⟩
  have registers := registerSums_classify (s := s) hf hg
  simp only [registerSums, List.forall_mem_cons] at registers
  obtain ⟨adr, sdr, awr, swr, aer, ser, aur, sur, -⟩ := registers
  exact ⟨⟨sets adr, sets awr, sets sdr, sets swr, List.forall_mem_nil _⟩,
    ⟨sets aer, sets aur, sets ser, sets sur, List.forall_mem_nil _⟩⟩

/-- Settles O48: each instruction classifies the truncated product, quotient or half of its operands. -/
theorem floatMultiplyDivideHalve : Obligations.FloatMultiplyDivideHalve := by
  intro s r1 r2 x2 b2 d2 f g v hf range a m sa sm
  have first := val_shortened_long (getFpr s f)
  have long := val_shortened_long (unpackLong (read64 s (eax s x2 b2 d2)))
  have short := val_shortened_unpackShort (read32 s (eax s x2 b2 d2))
  refine ⟨(classifies_of_product (applies_long hf rfl) (by decide) first long).setsFpr range,
    (classifies_of_product (applies_short hf rfl) (by decide) rfl short).setsFpr range,
    fun hz => (classifies_of_quotient (applies_long hf rfl) (by decide) first long ?_).setsFpr range,
    fun hz => (classifies_of_quotient (applies_short hf rfl) (by decide) rfl short ?_).setsFpr range, fun hg => ?_⟩
  · exact val_ne_zero (unpackLong_wf _) hz
  · exact val_ne_zero (unpackShort_wf _) hz
  have second := val_shortened_long (getFpr s g)
  refine ⟨(classifies_of_product (applies_register hf hg rfl) (by decide) first second).setsFpr range,
    (classifies_of_product (applies_register hf hg rfl) (by decide) rfl rfl).setsFpr range,
    fun wf hz => (classifies_of_quotient (applies_register hf hg rfl) (by decide) first second ?_).setsFpr range,
    fun wf hz => (classifies_of_quotient (applies_register hf hg rfl) (by decide) rfl rfl ?_).setsFpr range,
    (classifies_of_half (applies_register hf hg rfl) (by decide) second).setsFpr range,
    (classifies_of_half (applies_register hf hg rfl) (by decide) rfl).setsFpr range⟩
  · exact val_ne_zero wf hz
  · exact val_shortened_ne_zero 6 wf hz

/-- A result that is not zero tells that a divisor is not zero, since a quotient by zero is zero. -/
theorem classifies_of_quotient_ne_zero {i : Instr} {s : State} {f : FReg} {D : Nat} {x y : ℚ} {b : FloatValue}
    (h : Applies i s f b fun a b => divideFp s.psw.pm D a b) (hD : 0 < D)
    (hx : (shortened D (getFpr s f)).val = x) (hy : (shortened D b).val = y) (nonzero : x / y ≠ 0) :
    Classifies i s f D (x / y) false true :=
  classifies_of_quotient h hD hx hy (div_ne_zero_iff.1 nonzero).2

theorem traps_of_zeroDivisor {i : Instr} {s : State} {f : FReg} {D : Nat} {b : FloatValue}
    (h : Applies i s f b fun a b => divideFp s.psw.pm D a b) (hz : b.z = true) : Traps i s .floatDivide :=
  traps_of (fun _ => rfl) (h.trans (congrArg (finish <| applyFp s f ·) (divideFp_of_zero hz)))

theorem ne_zero_of_truncatesTo {D : Nat} {r : ℚ} {v : FloatValue} (h : TruncatesTo D r v) (hz : v.z = false) :
    r ≠ 0 := by
  rintro rfl
  rw [TruncatesTo, if_pos rfl] at h
  rw [h] at hz
  exact absurd hz (by decide)

/-- Settles O49: each instruction of the two tables classifies a truncated number, and classification alone decides what
becomes of an exponent out of range and of a zero. -/
theorem floatExceptions : Obligations.FloatExceptions := by
  intro s r1 r2 x2 b2 d2 f g v hf hg m n a b sa sb adds others up down
  have first := val_shortened_long (getFpr s f)
  have long := val_shortened_long m
  have short := val_shortened_unpackShort (read32 s (eax s x2 b2 d2))
  have second := val_shortened_long (getFpr s g)
  have sums : ∀ p ∈ adds, Classifies p.1 s f p.2.1 p.2.2.1 true p.2.2.2 := by
    show ∀ p ∈ registerSums s r1 r2 f g ++ storageSums s r1 x2 b2 d2 f, _
    exact List.forall_mem_append.2 ⟨registerSums_classify hf hg, storageSums_classify hf⟩
  have rest : ∀ p ∈ others, p.2.2 ≠ 0 → Classifies p.1 s f p.2.1 p.2.2 false true := by
    simp only [others, List.forall_mem_cons]
    exact ⟨fun _ => classifies_of_product (applies_register hf hg rfl) (by decide) first second,
      fun _ => classifies_of_product (applies_register hf hg rfl) (by decide) rfl rfl,
      classifies_of_quotient_ne_zero (applies_register hf hg rfl) (by decide) first second,
      classifies_of_quotient_ne_zero (applies_register hf hg rfl) (by decide) rfl rfl,
      fun _ => classifies_of_half (applies_register hf hg rfl) (by decide) second,
      fun _ => classifies_of_half (applies_register hf hg rfl) (by decide) rfl,
      fun _ => classifies_of_product (applies_long hf rfl) (by decide) first long,
      fun _ => classifies_of_product (applies_short hf rfl) (by decide) rfl short,
      classifies_of_quotient_ne_zero (applies_long hf rfl) (by decide) first long,
      classifies_of_quotient_ne_zero (applies_short hf rfl) (by decide) rfl short, List.forall_mem_nil _⟩
  refine ⟨fun p hp hz hv => ⟨(sums p hp).overflow hz hv, (sums p hp).underflow hz hv, (sums p hp).setsZeroCc hz hv⟩,
    fun p hp hz hv => ?_, ?divisors, fun p hp zero mask => (zero ▸ sums p hp).zeroSum mask⟩
  · have h := rest p hp (ne_zero_of_truncatesTo hv hz)
    exact ⟨h.overflow hz hv, fun under => h.underflow hz hv under rfl, h.setsZero hz hv⟩
  case divisors =>
    simp only [List.forall_mem_cons]
    exact ⟨traps_of_zeroDivisor (applies_register hf hg rfl), traps_of_zeroDivisor (applies_register hf hg rfl),
      traps_of_zeroDivisor (applies_long hf rfl), traps_of_zeroDivisor (applies_short hf rfl), List.forall_mem_nil _⟩

end Sys2Proof.Machine

/-! Floating-point loads, compares and LRER (spec/45_hfp_engine.md R374, R376, R377). -/

namespace Sys2Proof.Machine

/-! ## Loads (R377, R407, R421, R430, R439) -/

section Loads

variable {i : Instr} {s : State} {f : FReg} {b v : FloatValue} {D : Nat} {sign : Bool → Bool}

theorem setsFpr_of_valueOnly (h : Applies i s f b fun _ b => valueOnly (shortened D b)) :
    SetsFpr i s f (shortened D b) := setsFpr_of h

theorem setsFprCc_of_loadSigned (h : Applies i s f b fun _ b => loadSigned D b sign)
    (hv : { shortened D b with pos := sign (shortened D b).pos } = v) : SetsFprCc i s f v (floatCode v) := by
  rw [shortened_pos] at hv
  subst hv
  exact setsFprCc_of h

end Loads

/-- Settles O45: each load puts down its operand, cut to its precision and with a sign of its own. -/
theorem floatLoads : Obligations.FloatLoads := by
  intro s r1 r2 x2 b2 d2 f g hf
  have ld : Applies (.ld r1 x2 b2 d2) s f _ fun _ b => valueOnly b := applies_long hf rfl
  have le : Applies (.le r1 x2 b2 d2) s f _ fun _ b => valueOnly b := applies_short hf rfl
  refine ⟨setsFpr_of ld, setsFpr_of le, fun hg => ?_⟩
  intro v w
  have long : shortened 14 v = v := shortened_long v
  have short : shortened 6 v = w := shortened_short v
  have signed {i : Instr} {D : Nat} {u : FloatValue} (hu : shortened D v = u) (sign : Bool → Bool)
      (run : exec i s = fpRR r1 r2 s fun _ b => loadSigned D b sign) :
      SetsFprCc i s f { u with pos := sign u.pos } (floatCode { u with pos := sign u.pos }) :=
    setsFprCc_of_loadSigned (applies_register hf hg run) (by rw [hu])
  simp only [List.forall_mem_cons]
  exact ⟨long ▸ setsFpr_of_valueOnly (applies_register hf hg rfl),
    short ▸ setsFpr_of_valueOnly (applies_register hf hg rfl),
    signed long (fun _ => true) rfl, signed long (fun _ => false) rfl, signed long id rfl, signed long (! ·) rfl,
    signed short (fun _ => true) rfl, signed short (fun _ => false) rfl, signed short id rfl,
    signed short (! ·) rfl, List.forall_mem_nil _⟩

/-! ## Compares (R374) -/

/-- `compareFp` orders the numbers of its operands. -/
theorem compareFp_eq {D : Nat} {a b : FloatValue} {x y : ℚ} (hx : (shortened D a).val = x)
    (hy : (shortened D b).val = y) : compareFp D a b = if x = y then 0 else if x < y then 1 else 2 := by
  have hd : (shortened D a).exact.den ≠ 0 := (exact_den _).trans_ne one_ne_zero
  have hd' : (shortened D b).exact.opp.den ≠ 0 := (exact_den (shortened D b)).trans_ne one_ne_zero
  have value := Exact.val_add hd hd'
  rw [Exact.val_opp, val_exact, val_exact, hx, hy, ← sub_eq_add_neg] at value
  have zero := Exact.val_eq_zero (x := (shortened D a).exact.add (shortened D b).exact.opp) (Nat.mul_ne_zero hd hd')
  rw [compareFp]
  generalize (shortened D a).exact.add (shortened D b).exact.opp = d at value zero
  rw [value, sub_eq_zero] at zero
  by_cases equal : x = y
  · rw [if_pos (zero.1 equal), if_pos equal]
  · have sign := Exact.val_pos (x := d) (by rw [value]; exact sub_ne_zero.2 equal)
    rw [value, sub_pos] at sign
    rw [if_neg (mt zero.2 equal), if_neg equal]
    by_cases less : x < y
    · have negative : d.neg = true := by simpa [not_lt.2 less.le] using sign
      rw [if_pos negative, if_pos less]
    · have positive : d.neg = false := sign.1 (lt_of_le_of_ne (not_lt.1 less) (Ne.symm equal))
      rw [if_neg (by simp [positive]), if_neg less]

theorem setsCc_of_compare {i : Instr} {s : State} {f : FReg} {b : FloatValue} {D : Nat} {x y : ℚ}
    (h : Applies i s f b fun a b => ccOnly (compareFp D a b)) (hx : (shortened D (getFpr s f)).val = x)
    (hy : (shortened D b).val = y) : SetsCc i s (if x = y then 0 else if x < y then 1 else 2) := by
  rw [← compareFp_eq hx hy]
  exact setsCc_of h

/-- Settles O50: the sign of the exact difference is the order of the operands. -/
theorem floatCompare : Obligations.FloatCompare := by
  intro s r1 r2 x2 b2 d2 f g hf order a sa
  have x := val_shortened_long (getFpr s f)
  refine ⟨setsCc_of_compare (applies_long hf rfl) x (val_shortened_long _),
    setsCc_of_compare (applies_short hf rfl) rfl (val_shortened_unpackShort _), fun hg => ?_⟩
  exact ⟨setsCc_of_compare (applies_register hf hg rfl) x (val_shortened_long _),
    setsCc_of_compare (applies_register hf hg rfl) rfl rfl⟩

/-! ## Rounding to a short operand (R376) -/

/-- A multiple of a power of 16 truncates to its leading digits. -/
theorem truncatesTo_of_scaled {D k M N : Nat} {pos : Bool} {e : Int} (low : 16 ^ (D - 1) ≤ N) (high : N < 16 ^ D)
    (below : N * 16 ^ k ≤ M) (above : M < (N + 1) * 16 ^ k) :
    TruncatesTo D ((if pos then 1 else -1) * (M * 16 ^ (e - D - k))) ⟨false, pos, N * 16 ^ (14 - D), e⟩ := by
  have scale : (0 : ℚ) < 16 ^ (e - D - k) := by positivity
  have first : 0 < N := lt_of_lt_of_le (by positivity) low
  have size : (0 : ℚ) < M * 16 ^ (e - D - k) := by
    have : 0 < M := lt_of_lt_of_le (by positivity) below
    positivity
  have regroup (n : ℚ) : n * 16 ^ (e - D) = n * 16 ^ k * 16 ^ (e - D - k) := by
    rw [mul_assoc, ← zpow_natCast, ← zpow_add₀ (by norm_num), add_sub_cancel]
  have magnitude : |(if pos then 1 else -1) * (M * (16 : ℚ) ^ (e - D - k))| = M * 16 ^ (e - D - k) := by
    cases pos <;> simp [abs_of_pos size]
  rw [TruncatesTo, if_neg (abs_pos.1 (magnitude.symm ▸ size)), magnitude]
  refine ⟨rfl, ?sign, N, rfl, low, high, ?_, ?_⟩
  case sign => cases pos <;> simp [size, size.le]
  · rw [regroup]
    exact mul_le_mul_of_nonneg_right (by exact_mod_cast below) scale.le
  · rw [regroup]
    exact mul_lt_mul_of_pos_right (by exact_mod_cast above) scale

/-- What LRER makes of a value before it looks at the exponent: rounded at the sixth digit, a carry out of the leading
digit shifted in. -/
def roundedShort (b : FloatValue) : FloatValue :=
  if 2 ^ 56 ≤ b.F + 2 ^ 31 then ⟨false, b.pos, (b.F + 2 ^ 31) / 16 / 2 ^ 32 * 2 ^ 32, b.e + 1⟩
  else ⟨false, b.pos, (b.F + 2 ^ 31) / 2 ^ 32 * 2 ^ 32, b.e⟩

theorem roundToShort_of_zero {b : FloatValue} (hz : b.z = true) : roundToShort b = ⟨some b, none, none⟩ := if_pos hz

theorem roundToShort_of_nonzero {b v : FloatValue} (hz : b.z = false) (hv : roundedShort b = v) :
    roundToShort b = if 63 < v.e then ⟨some { v with e := v.e - 128 }, none, some .exponentOverflow⟩
      else ⟨some v, none, none⟩ := by
  subst hv
  unfold roundToShort roundedShort
  by_cases carry : 2 ^ 56 ≤ b.F + 2 ^ 31
  · simp only [hz, carry, Bool.false_eq_true, decide_true, if_true, if_false, gt_iff_lt]
  · simp only [hz, carry, Bool.false_eq_true, decide_false, if_false, gt_iff_lt]

/-- Rounding is truncation of the magnitude plus half a unit of the sixth digit. -/
theorem truncatesTo_roundedShort {b : FloatValue} (h : b.wf = true) (hz : b.z = false) :
    TruncatesTo 6 (b.val + (if b.pos then 1 else -1) * (16 : ℚ) ^ (b.e - 6) / 2) (roundedShort b) := by
  obtain ⟨low, high, -, -⟩ := (FloatValue.wf_iff_of_nonzero hz).1 h
  have half : (16 : ℚ) ^ (b.e - 6) / 2 = 2 ^ 31 * 16 ^ (b.e - 14) := by
    rw [show b.e - 6 = (b.e - 14) + (8 : Nat) by ring, zpow_add₀ (by norm_num), zpow_natCast]
    ring
  have sum : b.val + (if b.pos then 1 else -1) * (16 : ℚ) ^ (b.e - 6) / 2 =
      (if b.pos then 1 else -1) * ((b.F + 2 ^ 31 : Nat) * 16 ^ (b.e - 14)) := by
    rw [mul_div_assoc, half, FloatValue.val, hz, if_neg Bool.false_ne_true]
    push_cast
    ring
  rw [sum, roundedShort]
  by_cases carry : 2 ^ 56 ≤ b.F + 2 ^ 31
  · have lead : (b.F + 2 ^ 31) / 16 / 2 ^ 32 = 16 ^ 5 := by omega
    rw [if_pos carry, lead, show b.e - 14 = b.e + 1 - (6 : Nat) - (9 : Nat) by push_cast; ring]
    exact truncatesTo_of_scaled (N := 16 ^ 5) (D := 6) (by norm_num) (by norm_num) (by omega) (by omega)
  · rw [if_neg carry, show b.e - 14 = b.e - (6 : Nat) - (8 : Nat) by push_cast; ring]
    exact truncatesTo_of_scaled (N := (b.F + 2 ^ 31) / 2 ^ 32) (D := 6) (by omega) (by omega) (by omega) (by omega)

/-- Settles O51: the rounded value is the truncation the claim speaks of, and there is only one. -/
theorem loadRounded : Obligations.LoadRounded := by
  intro s r1 r2 f g v hf hg b
  have run : Applies (.lrer r1 r2) s f b fun _ b => roundToShort b := applies_register hf hg rfl
  refine ⟨fun hz => ?_, fun wf hz hv => ?_⟩
  · exact setsFpr_of (run.trans (congrArg (finish <| applyFp s f ·) (roundToShort_of_zero hz)))
  · have rounded : roundedShort b = v := (truncatesTo_roundedShort wf hz).unique (by decide) hv
    have answer := run.trans (congrArg (finish <| applyFp s f ·) (roundToShort_of_nonzero hz rounded))
    refine ⟨fun inRange => ?_, fun above => ?_⟩
    · rw [if_neg (not_lt.2 inRange)] at answer
      exact setsFpr_of answer
    · rw [if_pos above] at answer
      exact answer.trans (finish_interrupts _ .exponentOverflow rfl rfl)

end Sys2Proof.Machine

/-! The range of the floating-point registers (spec/45_hfp_engine.md R362, R379): every primitive yields a FloatValue in
range from operands in range. -/

namespace Sys2Proof.Machine

/-! ## The size of a value in range -/

/-- A value in range is a multiple of the last digit of the least exponent. -/
theorem val_eq_multiple {v : FloatValue} (h : v.wf = true) : ∃ n : Int, v.val = n * (16 : ℚ) ^ (-91 : Int) := by
  cases hz : v.z with
  | true => exact ⟨0, by rw [(val_eq_zero_iff v).2 (.inl hz)]; simp⟩
  | false =>
    obtain ⟨-, -, bottom, -⟩ := (FloatValue.wf_iff_of_nonzero hz).1 h
    refine ⟨(if v.pos then 1 else -1) * v.F * 16 ^ (v.e + 77).toNat, ?_⟩
    have shift : (16 : ℚ) ^ (v.e - 14) = 16 ^ (v.e + 77).toNat * 16 ^ (-91 : Int) := by
      rw [← zpow_natCast, ← zpow_add₀ (by norm_num)]
      congr 1
      omega
    rw [FloatValue.val, hz, if_neg Bool.false_ne_true, shift]
    push_cast
    ring

/-- A value in range is its own truncation. -/
theorem truncatesTo_self {v : FloatValue} (h : v.wf = true) (hz : v.z = false) : TruncatesTo 14 v.val v := by
  obtain ⟨low, high, -, -⟩ := (FloatValue.wf_iff_of_nonzero hz).1 h
  obtain ⟨z, pos, F, e⟩ := v
  dsimp only at hz low high
  subst hz
  have own := truncatesTo_of_scaled (D := 14) (k := 0) (M := F) (N := F) (pos := pos) (e := e) (by omega) (by omega)
    (by omega) (by omega)
  simpa [FloatValue.val, mul_assoc] using own

theorem abs_val_lt {v : FloatValue} (h : v.wf = true) : |v.val| < 16 ^ (63 : Int) := by
  cases hz : v.z with
  | true =>
    rw [(val_eq_zero_iff v).2 (.inl hz), abs_zero]
    positivity
  | false =>
    obtain ⟨-, -, -, top⟩ := (FloatValue.wf_iff_of_nonzero hz).1 h
    obtain ⟨-, high⟩ := (truncatesTo_self h hz).bounds (by decide) (val_ne_zero h hz)
    exact high.trans_le (zpow_le_zpow_right₀ (by norm_num) top)

theorem le_abs_val {v : FloatValue} (h : v.wf = true) (hv : v.val ≠ 0) : (16 : ℚ) ^ (-78 : Int) ≤ |v.val| := by
  have hz : v.z = false := by simpa using (not_or.1 (mt (val_eq_zero_iff v).2 hv)).1
  obtain ⟨-, -, bottom, -⟩ := (FloatValue.wf_iff_of_nonzero hz).1 h
  obtain ⟨low, -⟩ := (truncatesTo_self h hz).bounds (by decide) hv
  exact (zpow_le_zpow_right₀ (by norm_num) (by omega)).trans low

/-! ## Results that classification brings into range (R370) -/

/-- A number whose exponent classification can bring into range with one correction by 128. -/
def Correctable (r : ℚ) : Prop := |r| < 16 ^ (191 : Int) ∧ (r ≠ 0 → (16 : ℚ) ^ (-206 : Int) ≤ |r|)

section Correctable

variable {a b : FloatValue}

theorem correctable_sum (ha : a.wf = true) (hb : b.wf = true) (subtract : Bool) :
    Correctable (bif subtract then a.val - b.val else a.val + b.val) := by
  obtain ⟨m, hm⟩ := val_eq_multiple ha
  obtain ⟨n, hn⟩ := val_eq_multiple hb
  have size : |bif subtract then a.val - b.val else a.val + b.val| ≤ |a.val| + |b.val| := by
    cases subtract
    · exact abs_add_le _ _
    · exact abs_sub _ _
  obtain ⟨k, hk⟩ : ∃ k : Int, (bif subtract then a.val - b.val else a.val + b.val) = k * (16 : ℚ) ^ (-91 : Int) := by
    rw [hm, hn]
    cases subtract
    · exact ⟨m + n, by push_cast; exact (add_mul _ _ _).symm⟩
    · exact ⟨m - n, by push_cast; exact (sub_mul _ _ _).symm⟩
  have twice : (16 : ℚ) ^ (63 : Int) + 16 ^ (63 : Int) ≤ 16 ^ (191 : Int) := by norm_num
  refine ⟨size.trans_lt ((add_lt_add (abs_val_lt ha) (abs_val_lt hb)).trans_le twice), fun nonzero => ?_⟩
  rw [hk] at nonzero ⊢
  have one : (1 : ℚ) ≤ |(k : ℚ)| := by exact_mod_cast Int.one_le_abs (z := k) (by rintro rfl; simp at nonzero)
  rw [abs_mul, abs_of_pos (by positivity : (0 : ℚ) < 16 ^ (-91 : Int))]
  calc (16 : ℚ) ^ (-206 : Int) ≤ 1 * 16 ^ (-91 : Int) := by norm_num
    _ ≤ |(k : ℚ)| * 16 ^ (-91 : Int) := mul_le_mul_of_nonneg_right one (by positivity)

theorem correctable_product (ha : a.wf = true) (hb : b.wf = true) : Correctable (a.val * b.val) := by
  rw [Correctable, abs_mul]
  constructor
  · calc |a.val| * |b.val| < 16 ^ (63 : Int) * 16 ^ (63 : Int) :=
          mul_lt_mul'' (abs_val_lt ha) (abs_val_lt hb) (abs_nonneg _) (abs_nonneg _)
      _ ≤ 16 ^ (191 : Int) := by norm_num
  · intro nonzero
    obtain ⟨first, second⟩ := mul_ne_zero_iff.1 nonzero
    calc (16 : ℚ) ^ (-206 : Int) ≤ 16 ^ (-78 : Int) * 16 ^ (-78 : Int) := by norm_num
      _ ≤ |a.val| * |b.val| := mul_le_mul (le_abs_val ha first) (le_abs_val hb second) (by positivity) (abs_nonneg _)

theorem correctable_quotient (ha : a.wf = true) (hb : b.wf = true) (hy : b.val ≠ 0) : Correctable (a.val / b.val) := by
  rw [Correctable, abs_div]
  have divisor : 0 < |b.val| := abs_pos.2 hy
  constructor
  · rw [div_lt_iff₀ divisor]
    calc |a.val| < 16 ^ (63 : Int) := abs_val_lt ha
      _ ≤ 16 ^ (191 : Int) * 16 ^ (-78 : Int) := by norm_num
      _ ≤ 16 ^ (191 : Int) * |b.val| := mul_le_mul_of_nonneg_left (le_abs_val hb hy) (by positivity)
  · intro nonzero
    rw [le_div_iff₀ divisor]
    calc (16 : ℚ) ^ (-206 : Int) * |b.val| ≤ 16 ^ (-206 : Int) * 16 ^ (63 : Int) :=
          mul_le_mul_of_nonneg_left (abs_val_lt hb).le (by positivity)
      _ ≤ 16 ^ (-78 : Int) := by norm_num
      _ ≤ |a.val| := le_abs_val ha (div_ne_zero_iff.1 nonzero).1

theorem correctable_half (ha : a.wf = true) : Correctable (a.val / 2) := by
  rw [Correctable, abs_div, abs_two]
  constructor
  · calc |a.val| / 2 < 16 ^ (63 : Int) / 2 := div_lt_div_of_pos_right (abs_val_lt ha) two_pos
      _ ≤ 16 ^ (191 : Int) := by norm_num
  · intro nonzero
    calc (16 : ℚ) ^ (-206 : Int) ≤ 16 ^ (-78 : Int) / 2 := by norm_num
      _ ≤ |a.val| / 2 := div_le_div_of_nonneg_right (le_abs_val ha (div_ne_zero_iff.1 nonzero).1) zero_le_two

end Correctable

/-- Every number has a truncation. -/
theorem exists_truncatesTo {D : Nat} (hD : 0 < D) (r : ℚ) : ∃ v, TruncatesTo D r v := by
  have value : Exact.val ⟨decide (r.num < 0), r.num.natAbs, r.den, 0⟩ = r := by
    rw [Exact.val, zpow_zero, mul_one, ← mul_div_assoc, sign_mul_natAbs, Rat.num_div_den]
  exact ⟨_, value ▸ truncatesTo_chop hD r.den_ne_zero⟩

/-- A value keeps its digits when its exponent is corrected. -/
theorem wf_withExponent {v : FloatValue} (hz : v.z = false) (low : 2 ^ 52 ≤ v.F) (high : v.F < 2 ^ 56) {e : Int}
    (bottom : -77 ≤ e) (top : e ≤ 63) : ({ v with e := e } : FloatValue).wf = true :=
  (FloatValue.wf_iff_of_nonzero (v := { v with e := e }) hz).2 ⟨low, high, bottom, top⟩

/-- Classification puts a correctable result in range. -/
theorem classify_wf {pm : BitVec 4} {D : Nat} {r : ℚ} {v : FloatValue} {setsCC uEnable sigCheck firstWasZero : Bool}
    (hD : 0 < D) (hD' : D ≤ 14) (hv : TruncatesTo D r v) (hr : Correctable r) :
    ∀ w ∈ (classify pm v setsCC uEnable sigCheck firstWasZero).value, w.wf = true := by
  by_cases zero : r = 0
  · rw [TruncatesTo, if_pos zero] at hv
    rw [hv, classify_of_zero rfl]
    rintro w ⟨⟩
    rfl
  obtain ⟨below, above⟩ := hv.bounds hD zero
  have top : v.e ≤ 191 := le_of_zpow_bounds below hr.1
  have bottom : -205 ≤ v.e := le_of_zpow_bounds (hr.2 zero) above
  rw [TruncatesTo, if_neg zero] at hv
  obtain ⟨hz, -, N, digits, low, high, -, -⟩ := hv
  have lead : 2 ^ 52 ≤ v.F := by
    rw [digits, show 2 ^ 52 = 16 ^ (D - 1) * 16 ^ (14 - D) by
      rw [← Nat.pow_add, show D - 1 + (14 - D) = 13 by omega]; rfl]
    exact Nat.mul_le_mul_right _ low
  have less : v.F < 2 ^ 56 := by
    rw [digits, show 2 ^ 56 = 16 ^ D * 16 ^ (14 - D) by
      rw [← Nat.pow_add, show D + (14 - D) = 14 by omega]; rfl]
    exact Nat.mul_lt_mul_of_pos_right high (by positivity)
  by_cases overflow : 63 < v.e
  · rw [classify_of_overflow hz overflow]
    rintro w ⟨⟩
    exact wf_withExponent hz lead less (by omega) (by omega)
  by_cases underflow : v.e < -64
  · by_cases interrupts : uEnable = true ∧ pm.getLsbD 1 = true
    · rw [classify_of_underflow hz underflow interrupts.1 interrupts.2]
      rintro w ⟨⟩
      exact wf_withExponent hz lead less (by omega) (by omega)
    · rw [classify_of_trueZero hz underflow (by simpa [imp_iff_not_or] using interrupts)]
      rintro w ⟨⟩
      rfl
  · rw [classify_of_inRange hz (by omega) (by omega)]
    rintro w ⟨⟩
    exact wf_withExponent hz lead less (by omega) (by omega)

/-! ## The primitives keep the range -/

/-- The primitive yields values in range from operands in range. -/
def KeepsRange (op : FloatValue → FloatValue → FpResult) : Prop :=
  ∀ a b, a.wf = true → b.wf = true → ∀ v ∈ (op a b).value, v.wf = true

section Primitives

variable {pm : BitVec 4} {D Dop : Nat}

theorem keepsRange_addSub (hD : 0 < D) (hD' : D ≤ 14) (subtract normalized : Bool) :
    KeepsRange fun a b => addSub pm D a b subtract normalized := by
  intro a b ha hb
  obtain ⟨v, hv⟩ := exists_truncatesTo hD
    (bif subtract then (shortened D a).val - (shortened D b).val else (shortened D a).val + (shortened D b).val)
  dsimp only
  rw [addSub_of_sum hD rfl rfl hv]
  exact classify_wf hD hD' hv (correctable_sum (shortened_wf D ha) (shortened_wf D hb) subtract)

theorem keepsRange_multiplyFp (hD : 0 < D) (hD' : D ≤ 14) : KeepsRange fun a b => multiplyFp pm Dop D a b := by
  intro a b ha hb
  obtain ⟨v, hv⟩ := exists_truncatesTo hD ((shortened Dop a).val * (shortened Dop b).val)
  dsimp only
  rw [multiplyFp_of_product hD rfl rfl hv]
  exact classify_wf hD hD' hv (correctable_product (shortened_wf Dop ha) (shortened_wf Dop hb))

theorem keepsRange_divideFp (hD : 0 < D) (hD' : D ≤ 14) : KeepsRange fun a b => divideFp pm D a b := by
  intro a b ha hb
  dsimp only
  cases hz : b.z with
  | true =>
    rw [divideFp_of_zero hz]
    rintro v ⟨⟩
  | false =>
    obtain ⟨v, hv⟩ := exists_truncatesTo hD ((shortened D a).val / (shortened D b).val)
    have divisor := val_shortened_ne_zero D hb hz
    rw [divideFp_of_quotient hD rfl rfl divisor hv]
    exact classify_wf hD hD' hv (correctable_quotient (shortened_wf D ha) (shortened_wf D hb) divisor)

theorem keepsRange_halve (hD : 0 < D) (hD' : D ≤ 14) : KeepsRange fun _ b => halve pm D b := by
  intro a b _ hb
  obtain ⟨v, hv⟩ := exists_truncatesTo hD ((shortened D b).val / 2)
  dsimp only
  rw [halve_of_half hD rfl hv]
  exact classify_wf hD hD' hv (correctable_half (shortened_wf D hb))

/-- Rounding leaves a leading digit, 1 after a carry, and an exponent of at most 64. -/
theorem roundedShort_bounds {b : FloatValue} (h : b.wf = true) (hz : b.z = false) :
    (roundedShort b).z = false ∧ 2 ^ 52 ≤ (roundedShort b).F ∧ (roundedShort b).F < 2 ^ 56 ∧
      -77 ≤ (roundedShort b).e ∧ (roundedShort b).e ≤ 64 := by
  obtain ⟨low, high, bottom, top⟩ := (FloatValue.wf_iff_of_nonzero hz).1 h
  rw [roundedShort]
  split <;> refine ⟨rfl, ?_, ?_, ?_, ?_⟩ <;> dsimp only <;> omega

theorem keepsRange_roundToShort : KeepsRange fun _ b => roundToShort b := by
  intro a b _ hb
  dsimp only
  cases hz : b.z with
  | true =>
    rw [roundToShort_of_zero hz]
    rintro v ⟨⟩
    exact hb
  | false =>
    obtain ⟨u, hu⟩ : ∃ u, roundedShort b = u := ⟨_, rfl⟩
    obtain ⟨nonzero, low, high, bottom, top⟩ := hu ▸ roundedShort_bounds hb hz
    rw [roundToShort_of_nonzero hz hu]
    split <;> rintro v ⟨⟩
    · exact wf_withExponent nonzero low high (by omega) (by omega)
    · exact wf_withExponent nonzero low high bottom (by omega)

theorem keepsRange_shortened (D : Nat) : KeepsRange fun _ b => valueOnly (shortened D b) := by
  rintro a b - hb v ⟨⟩
  exact shortened_wf D hb

theorem keepsRange_valueOnly : KeepsRange fun _ b => valueOnly b := by
  rintro a b - hb v ⟨⟩
  exact hb

theorem keepsRange_compareFp : KeepsRange fun a b => ccOnly (compareFp D a b) := by
  rintro a b - - v ⟨⟩

theorem keepsRange_loadSigned (D : Nat) (sign : Bool → Bool) : KeepsRange fun _ b => loadSigned D b sign := by
  rintro a b - hb v ⟨⟩
  exact shortened_wf D hb

end Primitives

end Sys2Proof.Machine

/-! Every step keeps the floating-point registers in range (spec/45_hfp_engine.md R362, R379): the floating-point
primitives alone write one. The relation `OutKeepsFloats` is proved for each instruction, then for the loop. -/

namespace Sys2Proof.Machine

/-! ## What leaves the floating-point registers alone -/

theorem OnlyMem.fpr_eq {s t : State} (h : OnlyMem s t) : t.fpr = s.fpr := by rw [h]

theorem fpr_writeBE (s : State) (a : Addr) (n v : Nat) : (writeBE s a n v).fpr = s.fpr :=
  (onlyMem_writeBE n s a v).fpr_eq

theorem fpr_writeField (s : State) (a : Addr) (bs : List Byte) : (writeField s a bs).fpr = s.fpr :=
  (onlyMem_writeField bs s a).fpr_eq

theorem fpr_loadPsw (s : State) (a : Addr) : (loadPsw s a).fpr = s.fpr := by rw [loadPsw_frame]

theorem fpr_initiate (s : State) (old new : Addr) (code : BitVec 16) : (initiate s old new code).fpr = s.fpr := by
  rw [initiate_frame]

section Results

variable {s t u : State} {c : Prop} [Decidable c] {r k : Result}

theorem fpr_ite (ht : t.fpr = s.fpr) (hu : u.fpr = s.fpr) : (if c then t else u).fpr = s.fpr := by
  split
  · exact ht
  · exact hu

/-- The state of a result that a condition chooses. -/
theorem fpr_iteState (hr : r.state.fpr = s.fpr) (hk : k.state.fpr = s.fpr) :
    (if c then r else k).state.fpr = s.fpr := by
  split
  · exact hr
  · exact hk

theorem fpr_whenEven {q : RegNum} (h : k.state.fpr = s.fpr) : (whenEven q s k).state.fpr = s.fpr := fpr_iteState rfl h

theorem fpr_whenAligned {n : Nat} {a : Addr} (h : k.state.fpr = s.fpr) : (whenAligned n a s k).state.fpr = s.fpr :=
  fpr_iteState h rfl

theorem fpr_whenShorter {L1 L2 : Nat} (h : k.state.fpr = s.fpr) : (whenShorter L1 L2 s k).state.fpr = s.fpr :=
  fpr_iteState rfl h

theorem fpr_withFpr {q : RegNum} {k : FReg → Result} (h : ∀ f, (k f).state.fpr = s.fpr) :
    (withFpr q s k).state.fpr = s.fpr := by
  cases hf : fregOf q with
  | none => rw [withFpr_of_none q s k hf]; rfl
  | some f => rw [withFpr_of_some q s k f hf]; exact h f

theorem fpr_onFields {op : Config.DecimalOp} {a1 a2 : Addr} {L1 L2 : Nat} {k : DecValue → DecValue → Result}
    (h : ∀ u v, (k u v).state.fpr = s.fpr) : (onFields s op a1 L1 a2 L2 k).state.fpr = s.fpr :=
  fpr_iteState (h _ _) (fpr_writeField s a1 _)

theorem fpr_edit (a1 : Addr) (L : Nat) (a2 : Addr) : (edit s a1 L a2).state.fpr = s.fpr :=
  (onlyMem_editLoop _ L true a1 _).fpr_eq

end Results

/-! ## Outcomes -/

/-- Whatever next state the outcome is, its floating-point registers are in range if those of `s` are. -/
structure OutKeepsFloats (s : State) (o : Out) : Prop where
  keeps : ∀ t, o = .next t → s.fpr.wf = true → t.fpr.wf = true

theorem outKeepsFloats_next {s t : State} (h : s.fpr.wf = true → t.fpr.wf = true) : OutKeepsFloats s (.next t) :=
  ⟨by rintro _ ⟨⟩; exact h⟩

theorem outKeepsFloats_same {s t : State} (h : t.fpr = s.fpr) : OutKeepsFloats s (.next t) :=
  outKeepsFloats_next fun hs => by rwa [h]

theorem outKeepsFloats_of_same {s t : State} {o : Out} (h : t.fpr = s.fpr) (k : OutKeepsFloats t o) :
    OutKeepsFloats s o := ⟨fun u hu hs => k.keeps u hu (by rwa [h])⟩

theorem outKeepsFloats_ite {s : State} {c : Prop} [Decidable c] {o o' : Out} (h : OutKeepsFloats s o)
    (h' : OutKeepsFloats s o') : OutKeepsFloats s (if c then o else o') := by
  split
  · exact h
  · exact h'

/-- Post-processing writes no floating-point register. -/
theorem outKeepsFloats_finish {s : State} {r : Result} (h : s.fpr.wf = true → r.state.fpr.wf = true) :
    OutKeepsFloats s (finish r) := by
  obtain ⟨-, kept, -⟩ := postProcess_other r
  exact outKeepsFloats_next fun hs => by rw [kept]; exact h hs

theorem outKeepsFloats_finishSame {s : State} {r : Result} (h : r.state.fpr = s.fpr) : OutKeepsFloats s (finish r) :=
  outKeepsFloats_finish fun hs => by rwa [h]

/-! ## The floating-point instructions -/

theorem fpr_wf_iff (s : State) : s.fpr.wf = true ↔ ∀ f, (getFpr s f).wf = true := by
  simp only [FpRegs.wf, Bool.and_eq_true]
  constructor
  · rintro ⟨⟨⟨h0, h2⟩, h4⟩, h6⟩ (_ | _ | _ | _)
    exacts [h0, h2, h4, h6]
  · exact fun h => ⟨⟨⟨h .f0, h .f2⟩, h .f4⟩, h .f6⟩

theorem applyFp_keepsFloats {s : State} {f : FReg} {p : FpResult} (hs : s.fpr.wf = true)
    (h : ∀ v ∈ p.value, v.wf = true) : (applyFp s f p).state.fpr.wf = true := by
  rcases applyFp_state s f p with same | ⟨v, hv, set⟩
  · rwa [same]
  · rw [set, fpr_wf_iff]
    intro g
    rw [getFpr_setFpr]
    split
    · exact h v hv
    · exact (fpr_wf_iff s).1 hs g

section Primitives

variable {s : State} {r1 r2 x2 b2 : RegNum} {d2 : Disp} {op : FloatValue → FloatValue → FpResult} {o : Out}

theorem withFpr_keepsFloats {q : RegNum} {k : FReg → Result} (hs : s.fpr.wf = true)
    (h : ∀ f, (k f).state.fpr.wf = true) : (withFpr q s k).state.fpr.wf = true := by
  cases hf : fregOf q with
  | none => rw [withFpr_of_none q s k hf]; exact hs
  | some f => rw [withFpr_of_some q s k f hf]; exact h f

theorem outKeepsFloats_fpRR (h : KeepsRange op) (run : o = fpRR r1 r2 s op) : OutKeepsFloats s o :=
  run ▸ outKeepsFloats_finish fun hs =>
    withFpr_keepsFloats hs fun f => withFpr_keepsFloats hs fun g =>
      applyFp_keepsFloats hs (h _ _ ((fpr_wf_iff s).1 hs f) ((fpr_wf_iff s).1 hs g))

theorem outKeepsFloats_fpRXLong (h : KeepsRange op) (run : o = fpRXLong r1 x2 b2 d2 s op) : OutKeepsFloats s o :=
  run ▸ outKeepsFloats_finish fun hs =>
    withFpr_keepsFloats hs fun f => applyFp_keepsFloats hs (h _ _ ((fpr_wf_iff s).1 hs f) (unpackLong_wf _))

theorem outKeepsFloats_fpRXShort (h : KeepsRange op) (run : o = fpRXShort r1 x2 b2 d2 s op) : OutKeepsFloats s o :=
  run ▸ outKeepsFloats_finish fun hs =>
    withFpr_keepsFloats hs fun f => applyFp_keepsFloats hs (h _ _ ((fpr_wf_iff s).1 hs f) (unpackShort_wf _))

end Primitives

/-! ## The instructions -/

theorem outKeepsFloats_execTrt (l : Byte) (b1 : RegNum) (d1 : Disp) (b2 : RegNum) (d2 : Disp) (s : State) :
    OutKeepsFloats s (execTrt l b1 d1 b2 d2 s) := by
  refine outKeepsFloats_finishSame ?_
  split <;> rfl

theorem outKeepsFloats_execEdmk (l : Byte) (b1 : RegNum) (d1 : Disp) (b2 : RegNum) (d2 : Disp) (s : State) :
    OutKeepsFloats s (execEdmk l b1 d1 b2 d2 s) := by
  refine outKeepsFloats_finishSame (fpr_iteState (fpr_writeField _ _ _) ?_)
  split <;> exact fpr_edit _ _ _

/-- The instructions by what they write: the floating-point arithmetic, compares and loads by the primitive they apply;
all others leave the floating-point registers alone, by the shape of their rules. -/
theorem outKeepsFloats_runTarget (i : Instr) (s : State) : OutKeepsFloats s (runTarget i s) := by
  cases i with
  | adr | sdr | awr | swr | aer | ser | aur | sur =>
    exact outKeepsFloats_fpRR (keepsRange_addSub (by decide) (by decide) _ _) rfl
  | ad | sd | aw | sw => exact outKeepsFloats_fpRXLong (keepsRange_addSub (by decide) (by decide) _ _) rfl
  | ae | se | au | su => exact outKeepsFloats_fpRXShort (keepsRange_addSub (by decide) (by decide) _ _) rfl
  | mdr | mer => exact outKeepsFloats_fpRR (keepsRange_multiplyFp (by decide) (by decide)) rfl
  | md => exact outKeepsFloats_fpRXLong (keepsRange_multiplyFp (by decide) (by decide)) rfl
  | me => exact outKeepsFloats_fpRXShort (keepsRange_multiplyFp (by decide) (by decide)) rfl
  | ddr | der => exact outKeepsFloats_fpRR (keepsRange_divideFp (by decide) (by decide)) rfl
  | dd => exact outKeepsFloats_fpRXLong (keepsRange_divideFp (by decide) (by decide)) rfl
  | de => exact outKeepsFloats_fpRXShort (keepsRange_divideFp (by decide) (by decide)) rfl
  | hdr | her => exact outKeepsFloats_fpRR (keepsRange_halve (by decide) (by decide)) rfl
  | lrer => exact outKeepsFloats_fpRR keepsRange_roundToShort rfl
  | lpdr | lndr | ltdr | lcdr | lper | lner | lter | lcer => exact outKeepsFloats_fpRR (keepsRange_loadSigned _ _) rfl
  | ldr | ler => exact outKeepsFloats_fpRR (keepsRange_shortened _) rfl
  | ld => exact outKeepsFloats_fpRXLong keepsRange_valueOnly rfl
  | le => exact outKeepsFloats_fpRXShort keepsRange_valueOnly rfl
  | cdr | cer => exact outKeepsFloats_fpRR keepsRange_compareFp rfl
  | cd => exact outKeepsFloats_fpRXLong keepsRange_compareFp rfl
  | ce => exact outKeepsFloats_fpRXShort keepsRange_compareFp rfl
  | std | ste => exact outKeepsFloats_finishSame <| fpr_withFpr fun _ => fpr_writeBE _ _ _ _
  | spm | isk | lpr | lnr | ltr | lcr | nr | clr | or | xr | lr | cr | ar | sr | alr | slr | la | ic | ex | bal | lh
  | ch | ah | sh | mh | bas | n | cl | o | x | l | c | a | s | al | sl | ssm | srl | sll | sra | sla | tm | cli | clc
  | clm | icm | ssk | stc | mvi | ts | ni | oi | xi | stnsm | stosm => exact outKeepsFloats_finishSame rfl
  | balr | basr | bct | bctr | bxh | bxle | bc | bcr => exact outKeepsFloats_finishSame (fpr_ite rfl rfl)
  | stcm | cvd => exact outKeepsFloats_finishSame (fpr_writeField _ _ _)
  | st | sth => exact outKeepsFloats_finishSame (fpr_writeBE _ _ _ _)
  | stck => exact outKeepsFloats_finishSame (fpr_writeBE _ _ 8 _)
  | lm =>
    refine outKeepsFloats_finishSame (?_ : (loadRegs _ _ _ s).fpr = s.fpr)
    rw [loadRegs_other]
  | stm => exact outKeepsFloats_finishSame (onlyMem_storeRegs _ _ _ _).fpr_eq
  | svc => exact outKeepsFloats_finishSame (fpr_initiate _ _ _ _)
  | lpsw => exact outKeepsFloats_finishSame (fpr_iteState (fpr_loadPsw _ _) rfl)
  | mr | m | srdl | sldl | srda | slda => exact outKeepsFloats_finishSame (fpr_whenEven rfl)
  | dr | d => exact outKeepsFloats_finishSame <| fpr_whenEven <| fpr_iteState rfl <| fpr_iteState rfl rfl
  | clcl => exact outKeepsFloats_finishSame <| fpr_whenEven <| fpr_whenEven rfl
  | mvcl =>
    exact outKeepsFloats_finishSame <| fpr_whenEven <| fpr_whenEven <| fpr_iteState rfl (onlyMem_moveLong ..).fpr_eq
  | cs => exact outKeepsFloats_finishSame <| fpr_whenAligned <| fpr_iteState (fpr_writeBE _ _ _ _) rfl
  | cds =>
    exact outKeepsFloats_finishSame <| fpr_whenEven <| fpr_whenEven <| fpr_whenAligned <|
      fpr_iteState (fpr_writeBE _ _ _ _) rfl
  | mvn | mvc | mvz | nc | oc | xc => exact outKeepsFloats_finishSame (onlyMem_combineBytes ..).fpr_eq
  | tr => exact outKeepsFloats_finishSame (onlyMem_translate ..).fpr_eq
  | trt l b1 d1 b2 d2 => exact outKeepsFloats_execTrt l b1 d1 b2 d2 s
  | ed => exact outKeepsFloats_finishSame <| fpr_iteState (fpr_writeField _ _ _) (fpr_edit _ _ _)
  | edmk l b1 d1 b2 d2 => exact outKeepsFloats_execEdmk l b1 d1 b2 d2 s
  | srp | zap => exact outKeepsFloats_finishSame <| fpr_iteState (fpr_writeField _ _ _) (fpr_writeField _ _ _)
  | mvo => exact outKeepsFloats_finishSame (onlyMem_moveOffset ..).fpr_eq
  | pack => exact outKeepsFloats_finishSame (onlyMem_packBytes ..).fpr_eq
  | unpk => exact outKeepsFloats_finishSame (onlyMem_unpackBytes ..).fpr_eq
  | cp | cvb => exact outKeepsFloats_finishSame (fpr_iteState rfl rfl)
  | ap | sp => exact outKeepsFloats_finishSame <| fpr_onFields fun _ _ => fpr_writeField _ _ _
  | mp =>
    exact outKeepsFloats_finishSame <| fpr_whenShorter <| fpr_onFields fun _ _ =>
      fpr_iteState (fpr_writeField _ _ _) (fpr_writeField _ _ _)
  | dp =>
    exact outKeepsFloats_finishSame <| fpr_whenShorter <| fpr_onFields fun _ _ =>
      fpr_iteState rfl <| fpr_iteState rfl (fpr_writeField _ _ _)
  | diag | sio | siof | tio | hio | hdv | tch | sckc | stckc | ptlb | spx | stpx | stap | stctl | lctl =>
    exact outKeepsFloats_same rfl

theorem outKeepsFloats_executeTarget (bs : List Byte) (s : State) : OutKeepsFloats s (executeTarget bs s) := by
  unfold executeTarget
  split
  · next i _ _ =>
    obtain ⟨run⟩ := outKeepsFloats_runTarget i { s with exTarget := true }
    cases hu : runTarget i { s with exTarget := true } with
    | next u => exact outKeepsFloats_next (t := { u with exTarget := false }) (run u hu)
    | fault r => cases r
    | refused r => exact ⟨by rintro _ ⟨⟩⟩
  · exact outKeepsFloats_same rfl

theorem outKeepsFloats_execEx (r1 x2 b2 : RegNum) (d2 : Disp) (s : State) :
    OutKeepsFloats s (execEx r1 x2 b2 d2 s) :=
  outKeepsFloats_ite (outKeepsFloats_finishSame rfl) <| outKeepsFloats_ite (outKeepsFloats_finishSame rfl) <|
    outKeepsFloats_ite (outKeepsFloats_finishSame rfl) (outKeepsFloats_executeTarget _ s)

theorem outKeepsFloats_exec (i : Instr) (s : State) : OutKeepsFloats s (exec i s) := by
  by_cases h : ∃ r1 x2 b2 d2, i = .ex r1 x2 b2 d2
  · obtain ⟨r1, x2, b2, d2, rfl⟩ := h
    exact outKeepsFloats_execEx r1 x2 b2 d2 s
  · rw [← runTarget_eq_exec i s fun r1 x2 b2 d2 isEx => h ⟨r1, x2, b2, d2, isEx⟩]
    exact outKeepsFloats_runTarget i s

/-! ## The boundary check and the loop -/

theorem fpr_deliver (s : State) (src : SourceId) : (deliver s src).fpr = s.fpr := by
  obtain ⟨-, kept, -⟩ := initiateSource_frame s src
  exact fpr_ite kept kept

theorem fpr_boundaryCheck (s : State) : (boundaryCheck s).fpr = s.fpr := by
  have queued : (enqueueAsync s).fpr = s.fpr := by rw [enqueueAsync_frame]
  have delivered : (deliverFirst (enqueueAsync s)).fpr = s.fpr := by
    rcases deliverFirst_cases (enqueueAsync s) with h | ⟨src, -, -, h⟩
    · rw [h, queued]
    · rw [h, fpr_deliver, queued]
  exact fpr_ite delivered delivered

theorem outKeepsFloats_instrStep (s : State) : OutKeepsFloats s (instrStep s) := by
  unfold instrStep
  refine outKeepsFloats_ite (outKeepsFloats_same (fpr_initiate s _ _ _)) ?_
  dsimp only
  split
  · exact outKeepsFloats_of_same (t := advance s _) rfl (outKeepsFloats_exec _ _)
  · exact outKeepsFloats_same rfl

theorem outKeepsFloats_countStep {s : State} {o : Out} (h : OutKeepsFloats s o) : OutKeepsFloats s (countStep o) := by
  cases o with
  | next t => exact outKeepsFloats_next (h.keeps t rfl)
  | fault r => cases r
  | refused r => exact ⟨by rintro _ ⟨⟩⟩

theorem outKeepsFloats_step (s : State) : OutKeepsFloats s (step s) := by
  have checked : (boundaryCheck (setResult s .budget)).fpr = s.fpr := fpr_boundaryCheck _
  rw [step]
  rcases iteration_cases s with ⟨-, h⟩ | ⟨-, -, h⟩ | ⟨-, -, -, h⟩ | ⟨-, -, -, h⟩ <;> rw [h]
  · exact outKeepsFloats_same rfl
  · exact outKeepsFloats_same checked
  · exact outKeepsFloats_same checked
  · exact outKeepsFloats_of_same checked (outKeepsFloats_countStep (outKeepsFloats_instrStep _))

/-- Settles O5: of what a step does, the floating-point primitives alone write a floating-point register, and they keep
the range. -/
theorem stepKeepsFloatRange : Obligations.StepKeepsFloatRange := fun s t hs ht =>
  (outKeepsFloats_step s).keeps t ht hs

end Sys2Proof.Machine

/-! The packed-decimal code (spec/47_decimal_engine.md R473 to R475): a field is its digits and its sign, one nibble
each; and the conversions between a field and a register (spec/48_decimal_instructions.md R512, R513). -/

namespace Sys2Proof.Machine

/-! ## The nibbles of a byte string (R473) -/

/-- Nibble `k` of a byte string, counted from the left: the high half of a byte at an even place. -/
def nibbleAt (bs : List Byte) (k : Nat) : Nat :=
  ((bs.getD (k / 2) 0).extractLsb' (if k % 2 = 0 then 4 else 0) 4).toNat

theorem nibbleAt_cons_add_two (b : Byte) (bs : List Byte) (k : Nat) : nibbleAt (b :: bs) (k + 2) = nibbleAt bs k := by
  simp only [nibbleAt, Nat.add_div_right k (by decide : 0 < 2), Nat.add_mod_right, List.getD_cons_succ]

theorem nibbles_eq_map (bs : List Byte) : nibbles bs = (List.range (2 * bs.length)).map (nibbleAt bs) := by
  induction bs with
  | nil => rfl
  | cons b bs ih =>
    have later : (nibbleAt (b :: bs) ∘ Nat.succ) ∘ Nat.succ = nibbleAt bs := funext (nibbleAt_cons_add_two b bs)
    rw [nibbles, ih, List.length_cons, Nat.mul_succ, List.range_succ_eq_map, List.range_succ_eq_map, List.map_cons,
      List.map_cons, List.map_cons, List.map_map, List.map_map, later]
    rfl

/-- The nibbles of a field are its digits and at the end its sign. -/
theorem nibbles_eq_append {bs : List Byte} (ne : bs ≠ []) :
    nibbles bs = (List.range (2 * bs.length - 1)).map (nibbleAt bs) ++ [nibbleAt bs (2 * bs.length - 1)] := by
  have pos : 0 < bs.length := List.length_pos_of_ne_nil ne
  rw [nibbles_eq_map, ← List.map_singleton, ← List.map_append, ← List.range_succ]
  congr 2
  omega

theorem nibbleAt_eq_getD {bs : List Byte} {k : Nat} (h : k < 2 * bs.length) :
    nibbleAt bs k = (nibbles bs).getD k 0 := by
  simp [nibbles_eq_map, h]

theorem nibbles_append (bs cs : List Byte) : nibbles (bs ++ cs) = nibbles bs ++ nibbles cs := by
  induction bs with
  | nil => rfl
  | cons b bs ih => rw [List.cons_append, nibbles, ih, nibbles, List.cons_append, List.cons_append]

theorem nibbles_singleton {hi lo : Nat} (hhi : hi < 16) (hlo : lo < 16) :
    nibbles [BitVec.ofNat 8 (hi * 16 + lo)] = [hi, lo] := by
  have high : (hiNib (BitVec.ofNat 8 (hi * 16 + lo))).toNat = hi := by
    simp only [hiNib, BitVec.extractLsb'_toNat, BitVec.toNat_ofNat, Nat.shiftRight_eq_div_pow]
    omega
  have low : (loNib (BitVec.ofNat 8 (hi * 16 + lo))).toNat = lo := by
    simp only [loNib, BitVec.extractLsb'_toNat, BitVec.toNat_ofNat, Nat.shiftRight_zero]
    omega
  rw [nibbles, high, low, nibbles]

/-! ## Strings of digits (R474) -/

theorem digitsValue_append (ds : List Nat) (d : Nat) : digitsValue (ds ++ [d]) = digitsValue ds * 10 + d :=
  List.foldl_append

/-- The value of a string of digits is the sum of its digits times powers of ten. -/
theorem digitsValue_map_range (f : Nat → Nat) (n : Nat) :
    digitsValue ((List.range n).map f) = ((List.range n).map fun k => f k * 10 ^ (n - 1 - k)).sum := by
  induction n with
  | zero => rfl
  | succ n ih =>
    have raise : ∀ k ∈ List.range n, f k * 10 ^ (n - k) = f k * 10 ^ (n - 1 - k) * 10 := fun k hk => by
      rw [Nat.mul_assoc, ← Nat.pow_succ, show n - k = n - 1 - k + 1 by have := List.mem_range.1 hk; omega]
    rw [List.range_succ, List.map_append, List.map_singleton, digitsValue_append, ih, List.map_append, List.sum_append,
      Nat.add_sub_cancel, List.map_congr_left raise, List.sum_map_mul_right, List.map_singleton, List.sum_singleton,
      Nat.sub_self, Nat.pow_zero, Nat.mul_one]

/-- The low `n` decimal digits of `m`, most significant first. -/
def decimalDigits : Nat → Nat → List Nat
  | 0, _ => []
  | n + 1, m => decimalDigits n (m / 10) ++ [m % 10]

theorem decimalDigits_length (n m : Nat) : (decimalDigits n m).length = n := by
  induction n generalizing m with
  | zero => rfl
  | succ n ih => rw [decimalDigits, List.length_append, ih, List.length_singleton]

theorem le_nine_of_mem_decimalDigits {n m d : Nat} (h : d ∈ decimalDigits n m) : d ≤ 9 := by
  induction n generalizing m with
  | zero => cases h
  | succ n ih =>
    rcases List.mem_append.1 h with high | last
    · exact ih high
    · have := List.mem_singleton.1 last
      omega

theorem digitsValue_decimalDigits (n m : Nat) : digitsValue (decimalDigits n m) = m % 10 ^ n := by
  induction n generalizing m with
  | zero => rw [Nat.pow_zero, Nat.mod_one]; rfl
  | succ n ih => rw [decimalDigits, digitsValue_append, ih, Nat.pow_succ', Nat.mod_mul, Nat.mul_comm, Nat.add_comm]

/-- Digit `k` from the left of the low `n`. -/
theorem decimalDigits_getD {n k : Nat} (m : Nat) (h : k < n) (ds : List Nat) :
    (decimalDigits n m ++ ds).getD k 0 = m / 10 ^ (n - 1 - k) % 10 := by
  induction n generalizing m ds with
  | zero => omega
  | succ n ih =>
    rw [decimalDigits, List.append_assoc]
    by_cases last : k = n
    · subst last
      rw [List.getD_append_right _ _ _ _ (decimalDigits_length _ _).le, decimalDigits_length, Nat.sub_self,
        Nat.add_sub_cancel, Nat.sub_self, Nat.pow_zero, Nat.div_one]
      rfl
    · rw [ih (m / 10) (by omega), Nat.div_div_eq_div_mul, ← Nat.pow_succ',
        show (n - 1 - k).succ = n + 1 - 1 - k by omega]

/-! ## Fields (R474, R475) -/

/-- What a field decodes to, by its digits and its sign. -/
theorem decField_of_nibbles {bs : List Byte} {ds : List Nat} {sign : Nat} (h : nibbles bs = ds ++ [sign]) :
    decField bs = ⟨ds.all (· ≤ 9) && decide (10 ≤ sign), sign == 11 || sign == 13, digitsValue ds⟩ := by
  simp only [decField, h, List.dropLast_concat, List.getLastD_concat]

theorem nibbles_digitBytes (n m : Nat) : nibbles (digitBytes n m) = decimalDigits (2 * n) m := by
  induction n generalizing m with
  | zero => rfl
  | succ n ih =>
    rw [digitBytes, nibbles_append, ih, nibbles_singleton (by omega) (by omega), Nat.mul_succ, decimalDigits,
      decimalDigits, Nat.div_div_eq_div_mul, List.append_assoc]
    rfl

/-- The nibble of the sign that an encoded field holds (R475). -/
def signNibble (neg : Bool) : Nat := if neg then 13 else 12

/-- The nibbles of an encoded field are the low digits of the magnitude and the sign. -/
theorem nibbles_encField {L : Nat} (pos : 0 < L) (neg : Bool) (mag : Nat) :
    nibbles (encField L neg mag) = decimalDigits (2 * L - 1) mag ++ [signNibble neg] := by
  have sign : signNibble neg < 16 := by cases neg <;> decide
  rw [encField, nibbles_append, nibbles_digitBytes, ← signNibble, nibbles_singleton (by omega) sign,
    show 2 * L - 1 = 2 * (L - 1) + 1 by omega, decimalDigits, List.append_assoc]
  rfl

/-- An encoded field decodes to its sign and the digits it holds. -/
theorem decField_encField {L : Nat} (pos : 0 < L) (neg : Bool) (mag : Nat) :
    decField (encField L neg mag) = ⟨true, neg, mag % 10 ^ (2 * L - 1)⟩ := by
  have digits : (decimalDigits (2 * L - 1) mag).all (· ≤ 9) = true :=
    List.all_eq_true.2 fun _ h => decide_eq_true (le_nine_of_mem_decimalDigits h)
  rw [decField_of_nibbles (nibbles_encField pos neg mag), digits, digitsValue_decimalDigits]
  cases neg <;> rfl

/-- Settles O52: the nibbles of an encoded field are digits of the magnitude and the sign; those of any field are read
place by place. -/
theorem decimalFieldCode : Obligations.DecimalFieldCode := by
  refine ⟨fun L neg mag pos => ⟨encField_length pos neg mag, decField_encField pos neg mag, ?sign, fun k hk => ?digit⟩,
    fun bs ne => ?_⟩
  case sign =>
    refine (nibbleAt_eq_getD (by rw [encField_length pos]; omega)).trans ?_
    rw [nibbles_encField pos, List.getD_append_right _ _ _ _ (decimalDigits_length _ _).le, decimalDigits_length,
      Nat.sub_self]
    rfl
  case digit =>
    refine (nibbleAt_eq_getD (by rw [encField_length pos]; omega)).trans ?_
    rw [nibbles_encField pos, decimalDigits_getD _ hk, Nat.sub_sub (2 * L) 1 1]
  · intro n
    rw [decField_of_nibbles (nibbles_eq_append ne)]
    refine ⟨?valid, ?negative, digitsValue_map_range (nibbleAt bs) n⟩
    case valid =>
      simp only [Bool.and_eq_true, List.all_map, List.all_eq_true, List.mem_range, Function.comp, decide_eq_true_eq]
      rfl
    case negative =>
      simp only [Bool.or_eq_true, beq_iff_eq]
      rfl

/-! ## CVB and CVD (R512, R513) -/

/-- CVB of a valid field: the value in the register, and the exception where it does not fit. -/
theorem exec_cvb_of_valid {r1 x2 b2 : RegNum} {d2 : Disp} {s : State} {u : DecValue}
    (field : decField (readField s (eax s x2 b2 d2) 8) = u) (valid : u.valid = true) :
    exec (.cvb r1 x2 b2 d2) s = finish ⟨setReg s r1 (BitVec.ofInt 32 u.val), none,
      if overflows u.val then some .fixedPointDivide else none⟩ := by
  subst field
  exact congrArg finish (if_pos valid)

theorem val_natAbs (x : Int) : DecValue.val ⟨true, decide (x < 0), x.natAbs⟩ = x := by
  simp only [DecValue.val, decide_eq_true_eq]
  split <;> omega

/-- Settles O55: CVB by whether the value fits; the field CVD stores has room for every word's value. -/
theorem decimalConversions : Obligations.DecimalConversions := by
  intro s r1 x2 b2 d2 a u
  refine ⟨fun valid fits => setsReg_of ?_, fun valid big => ?_, fun canonical => ?_⟩
  · rw [exec_cvb_of_valid rfl valid, overflows_of_fitsWord fits]
    rfl
  · rw [exec_cvb_of_valid rfl valid, (overflows_iff u.val).2 big]
    exact finish_interrupts _ _ rfl rfl
  · intro x bs
    have room : x.natAbs < 10 ^ (2 * 8 - 1) := by
      have low : -2 ^ 31 ≤ x := BitVec.le_toInt (getReg s r1)
      have high : x < 2 ^ 31 := BitVec.toInt_lt
      omega
    have length : bs.length = 8 := encField_length (by decide) _ _
    have decoded : decField bs = ⟨true, decide (x < 0), x.natAbs⟩ := by
      rw [decField_encField (by decide), Nat.mod_eq_of_lt room]
    exact ⟨length, congrArg DecValue.valid decoded, decoded ▸ val_natAbs x,
      stores_of canonical (by rw [length]; decide) rfl⟩

end Sys2Proof.Machine

/-! ED and EDMK (spec/48_decimal_instructions.md R514 to R516): what they change in every state, and what they leave where
Edit meets no invalid digit. -/

namespace Sys2Proof.Machine

/-! ## A change of a field, of registers and of the condition code -/

/-- Beyond the listed registers, `t` differs from `s` in the `n` bytes at `a` and in the condition code alone. -/
structure ChangesField (rs : List RegNum) (a : Addr) (n : Nat) (s t : State) : Prop where
  outside : SameOutside s t a n
  psw : t.psw = { s.psw with cc := t.psw.cc }
  frame : Frame rs [] s t

section Changes

variable {rs qs : List RegNum} {a : Addr} {n : Nat} {s t u : State}

theorem ChangesField.trans (h : ChangesField rs a n s t) (k : ChangesField qs a n t u) :
    ChangesField (rs ++ qs) a n s u :=
  ⟨fun x hx => (k.outside x hx).trans (h.outside x hx), by rw [k.psw, h.psw], h.frame.trans k.frame⟩

theorem ChangesField.of_onlyMem (h : OnlyMem s t) (outside : SameOutside s t a n) : ChangesField [] a n s t :=
  ⟨outside, by rw [h.psw], frame_of_onlyMem [] [] h⟩

theorem changesField_setCc (c : CC) : ChangesField [] a n s (setCc s c) :=
  ⟨fun _ _ => rfl, rfl, frame_setCc [] [] c (frame_refl [] [] s)⟩

theorem changesField_setReg (r : RegNum) (v : Word) : ChangesField [r] a n s (setReg s r v) :=
  ⟨fun _ _ => rfl, rfl, frame_setReg r v s⟩

/-- The unspecified outcome with a result field changes that field and the condition code (R478). -/
theorem changesField_invalidField (op : Config.DecimalOp) (f1 f2 : List Byte) (imm : Nat) :
    ChangesField [] a n s (invalidField s op f1 f2 imm a n).withCc :=
  have outside : SameOutside s (invalidField s op f1 f2 imm a n).state a n := fun x hx =>
    readByte_writeField_outside _ s a x (by rwa [List.length_map, List.length_range])
  (ChangesField.of_onlyMem (onlyMem_writeField _ s a) outside).trans (changesField_setCc _)

theorem changesField_edit (a2 : Addr) : ChangesField [] a n s (edit s a n a2).state :=
  .of_onlyMem (onlyMem_editLoop _ n true a _) fun x hx => readByte_editLoop_outside _ n true a x _ hx

end Changes

theorem Gives.imp {i : Instr} {s : State} {P Q : State → Prop} (h : Gives i s P) (k : ∀ t, P t → Q t) : Gives i s Q :=
  let ⟨t, run, p⟩ := h
  ⟨t, run, k t p⟩

/-! ## ED and EDMK (R514, R515) -/

/-- ED changes the pattern and the condition code; without an invalid digit storage is the one Edit leaves. -/
theorem gives_ed (s : State) (l : Byte) (b1 b2 : RegNum) (d1 d2 : Disp) :
    let e := edit s (ea s b1 d1) (l.toNat + 1) (ea s b2 d2)
    Gives (.ed l b1 d1 b2 d2) s fun t => ChangesField [] (ea s b1 d1) (l.toNat + 1) s t ∧
      (e.bad = false → readByte t = readByte e.state ∧ t.psw.cc = ccEdit e) := by
  intro e
  by_cases bad : e.bad = true
  · refine ⟨_, (congrArg finish (if_pos bad)).trans (finish_of_exc_none _ rfl), ?_, fun good => ?_⟩
    · exact changesField_invalidField _ _ _ _
    · cases good.symm.trans bad
  · refine ⟨_, (congrArg finish (if_neg bad)).trans (finish_doneCc _ _), ?_, fun _ => ⟨rfl, rfl⟩⟩
    exact (changesField_edit _).trans (changesField_setCc _)

/-- The register that EDMK leaves for a mark: its low 24 bits the mark, if there is one. -/
def markedRegister (v : Word) : Option Addr → Word
  | none => v
  | some x => v.extractLsb' 24 8 ++ x

theorem setReg_getReg (s : State) (r : RegNum) : setReg s r (getReg s r) = s := by
  simp [setReg, getReg]

theorem exec_edmk_of_good {s : State} {l : Byte} {b1 b2 : RegNum} {d1 d2 : Disp} {e : EditState}
    (he : edit s (ea s b1 d1) (byteCount l) (ea s b2 d2) = e) (good : ¬e.bad = true) :
    exec (.edmk l b1 d1 b2 d2) s =
      finish (doneCc (setReg e.state 1 (markedRegister (getReg e.state 1) e.mark)) (ccEdit e)) := by
  subst he
  refine congrArg finish ((if_neg good).trans ?_)
  cases (edit s (ea s b1 d1) (byteCount l) (ea s b2 d2)).mark with
  | none => rw [markedRegister, setReg_getReg]
  | some x => rfl

/-- EDMK changes register 1 too; without an invalid digit the register holds the mark. -/
theorem gives_edmk (s : State) (l : Byte) (b1 b2 : RegNum) (d1 d2 : Disp) :
    let e := edit s (ea s b1 d1) (l.toNat + 1) (ea s b2 d2)
    Gives (.edmk l b1 d1 b2 d2) s fun t => ChangesField [1] (ea s b1 d1) (l.toNat + 1) s t ∧
      (e.bad = false → readByte t = readByte e.state ∧ t.psw.cc = ccEdit e ∧
        getReg t 1 = markedRegister (getReg s 1) e.mark) := by
  intro e
  have edited : ChangesField [] (ea s b1 d1) (l.toNat + 1) s e.state := changesField_edit _
  by_cases bad : e.bad = true
  · refine ⟨_, (congrArg finish (if_pos bad)).trans (finish_of_exc_none _ rfl), ?_, fun good => ?_⟩
    · exact (changesField_setReg 1 _).trans (changesField_invalidField _ _ _ _)
    · cases good.symm.trans bad
  · obtain ⟨sameRegs, -, -⟩ := edited.frame
    refine ⟨_, (exec_edmk_of_good (e := e) rfl bad).trans (finish_doneCc _ _), ?_, fun _ => ⟨rfl, rfl, ?_⟩⟩
    · exact edited.trans ((changesField_setReg 1 _).trans (changesField_setCc _))
    · rw [getReg_setCc, getReg_setReg, if_pos rfl, sameRegs 1 List.not_mem_nil]

theorem ccEdit_eq (e : EditState) : ccEdit e = if e.nz then if e.sig then 1 else 2 else 0 := by
  unfold ccEdit
  cases e.nz <;> rfl

/-- Settles O57: the points are those of the model's loop, and the last one is what the loop leaves. -/
theorem editResults : Obligations.EditResults := by
  intro s l b1 b2 d1 d2 canonical a1 n place
  let e := edit s a1 n (ea s b2 d2)
  have wf : Memory.wf memorySize s.mem = true := (Bool.and_eq_true_iff.1 canonical).1
  obtain ⟨m, p, le, start, steps, last, badIff, final⟩ :=
    editLoop_points (readByte s a1) n true a1 ⟨s, ea s b2 d2, true, false, false, none, false⟩ wf rfl
  refine ⟨m, p, le, start, steps, last, ?_⟩
  intro code edited
  have good (full : m = n) : e.bad = false := Bool.eq_false_iff.2 fun bad => (badIff.1 bad).ne full
  have point (full : m = n) : p n = editPoint e := final full
  have edited_of {t : State} (full : m = n) (mem : readByte t = readByte e.state) (cc : t.psw.cc = ccEdit e) :
      (∀ x, readByte t x = (p n).byte x) ∧ t.psw.cc = code := by
    refine ⟨fun x => by rw [mem, point full, editPoint_byte], ?_⟩
    rw [cc, ccEdit_eq]
    simp only [code, point full, editPoint_nz, editPoint_sig]
  refine ⟨(gives_ed s l b1 b2 d1 d2).imp ?ed, (gives_edmk s l b1 b2 d1 d2).imp ?edmk⟩
  case ed =>
    rintro t ⟨changed, result⟩
    refine ⟨fun full => ?_, changed.outside, changed.psw, changed.frame⟩
    obtain ⟨mem, cc⟩ := result (good full)
    exact edited_of full mem cc
  case edmk =>
    rintro t ⟨changed, result⟩
    refine ⟨fun full => ?_, changed.outside, changed.psw, changed.frame, fun full => ?_⟩
    · obtain ⟨mem, cc, -⟩ := result (good full)
      exact edited_of full mem cc
    · obtain ⟨-, -, register⟩ := result (good full)
      rw [register, point full, editPoint_mark]
      cases e.mark <;> rfl

end Sys2Proof.Machine

/-! Decimal operations on invalid codes (spec/47_decimal_engine.md R478, spec/48_decimal_instructions.md R506): only their
results change. -/

namespace Sys2Proof.Machine

/-! ## The unspecified outcome (R478) -/

/-- An instruction with the unspecified outcome changes its result field and the condition code. -/
theorem gives_of_invalidField {i : Instr} {s : State} {op : Config.DecimalOp} {f1 f2 : List Byte} {imm : Nat} {a : Addr}
    {n : Nat} (run : exec i s = finish (invalidField s op f1 f2 imm a n)) :
    Gives i s fun t => SameOutside s t a n ∧ (∃ c, t.psw = { s.psw with cc := c }) ∧ Frame [] [] s t :=
  have changed := changesField_invalidField op f1 f2 imm
  ⟨_, run.trans (finish_of_exc_none _ rfl), changed.outside, ⟨_, changed.psw⟩, changed.frame⟩

theorem not_bothValid {f1 f2 : List Byte} (h : (decField f1).valid = false ∨ (decField f2).valid = false) :
    ¬((decField f1).valid && (decField f2).valid) = true :=
  Bool.eq_false_iff.1 (Bool.and_eq_false_iff.2 h)

theorem onFields_of_invalid (s : State) (op : Config.DecimalOp) (a1 : Addr) (L1 : Nat) (a2 : Addr) (L2 : Nat)
    (k : DecValue → DecValue → Result)
    (h : (decField (readField s a1 L1)).valid = false ∨ (decField (readField s a2 L2)).valid = false) :
    onFields s op a1 L1 a2 L2 k = invalidField s op (readField s a1 L1) (readField s a2 L2) 0 a1 L1 :=
  if_neg (not_bothValid h)

/-! ## The operations -/

/-- MP and DP past the length check: the operation on the two fields. -/
theorem whenShorter_of_codes {l1 l2 : RegNum} (s : State) (k : Result) (eight : l2.toNat < 8)
    (shorter : l2.toNat < l1.toNat) : whenShorter (byteCount l1) (byteCount l2) s k = k :=
  whenShorter_of_shorter _ _ s k (by unfold byteCount; omega) (by unfold byteCount; omega)

/-- MP of a multiplicand without room for the product. -/
theorem exec_mp_of_noRoom {s : State} {l1 l2 b1 b2 : RegNum} {d1 d2 : Disp} {u v : DecValue}
    (field1 : decField (readField s (ea s b1 d1) (byteCount l1)) = u)
    (field2 : decField (readField s (ea s b2 d2) (byteCount l2)) = v) (eight : l2.toNat < 8)
    (shorter : l2.toNat < l1.toNat) (valid1 : u.valid = true) (valid2 : v.valid = true)
    (noRoom : 10 ^ (2 * (l1.toNat - l2.toNat) - 1) ≤ u.mag) :
    exec (.mp l1 l2 b1 d1 b2 d2) s = finish (invalidField s .multiply (readField s (ea s b1 d1) (byteCount l1))
      (readField s (ea s b2 d2) (byteCount l2)) 0 (ea s b1 d1) (byteCount l1)) := by
  subst field1 field2
  have difference : byteCount l1 - byteCount l2 = l1.toNat - l2.toNat := Nat.add_sub_add_right _ 1 _
  rw [← difference] at noRoom
  exact congrArg finish <| (whenShorter_of_codes s _ eight shorter).trans <|
    (onFields_of_valid s _ _ _ _ _ _ (Bool.and_eq_true_iff.2 ⟨valid1, valid2⟩)).trans (if_pos noRoom)

/-- Settles O58: each operation has the unspecified outcome of its result field, register or condition code. -/
theorem invalidDecimalCodes : Obligations.InvalidDecimalCodes := by
  intro s l l1 l2 r1 x2 b1 b2 d1 d2 a1 L1 u v fieldOnly
  refine ⟨fun bad => ?zap, fun bad => ⟨?ap, ?sp, ?cp, fun eight shorter => ⟨?mp, ?dp⟩⟩,
    fun eight shorter valid1 valid2 noRoom => ?noRoom, fun bad => ?srp, fun _ => ⟨?ed, ?edmk⟩, fun bad => ?cvb⟩
  case zap => exact gives_of_invalidField (congrArg finish (if_neg (Bool.eq_false_iff.1 bad)))
  case ap | sp => exact gives_of_invalidField (congrArg finish (onFields_of_invalid s _ _ _ _ _ _ bad))
  case cp => exact ⟨_, setsCc_of (congrArg finish (if_neg (not_bothValid bad)))⟩
  case mp | dp =>
    exact gives_of_invalidField <| congrArg finish <|
      (whenShorter_of_codes s _ eight shorter).trans (onFields_of_invalid s _ _ _ _ _ _ bad)
  case noRoom => exact gives_of_invalidField (exec_mp_of_noRoom rfl rfl eight shorter valid1 valid2 noRoom)
  case srp =>
    have invalid : (u.valid && decide (l2.toNat ≤ 9)) = false :=
      Bool.and_eq_false_iff.2 (bad.imp_right fun big => decide_eq_false (Nat.not_le.2 big))
    exact gives_of_invalidField (congrArg finish (if_neg (Bool.eq_false_iff.1 invalid)))
  case ed =>
    exact (gives_ed s l b1 b2 d1 d2).imp fun _ ⟨changed, _⟩ => ⟨changed.outside, ⟨_, changed.psw⟩, changed.frame⟩
  case edmk =>
    exact (gives_edmk s l b1 b2 d1 d2).imp fun _ ⟨changed, _⟩ => ⟨changed.outside, ⟨_, changed.psw⟩, changed.frame⟩
  case cvb => exact ⟨_, _, setsRegCc_of (congrArg finish (if_neg (Bool.eq_false_iff.1 bad)))⟩

end Sys2Proof.Machine

/-! CP, MP and DP on valid operands (spec/48_decimal_instructions.md R505 to R507): a valid field bounds its magnitude,
so that a product with room for it fits. -/

namespace Sys2Proof.Machine

/-! ## The size of a valid field (R474) -/

theorem digitsValue_lt {ds : List Nat} (digits : ∀ d ∈ ds, d ≤ 9) : digitsValue ds < 10 ^ ds.length := by
  induction ds using List.reverseRecOn with
  | nil => exact Nat.zero_lt_one
  | append_singleton ds d ih =>
    have last : d ≤ 9 := digits d List.mem_concat_self
    have high : digitsValue ds < 10 ^ ds.length := ih fun x hx => digits x (List.mem_append_left _ hx)
    rw [digitsValue_append, List.length_append, List.length_singleton, Nat.pow_succ]
    omega

/-- A valid field of `n` bytes holds `2n − 1` digits. -/
theorem mag_lt_of_valid {bs : List Byte} (ne : bs ≠ []) (valid : (decField bs).valid = true) :
    (decField bs).mag < 10 ^ (2 * bs.length - 1) := by
  rw [decField_of_nibbles (nibbles_eq_append ne)] at valid ⊢
  obtain ⟨digits, -⟩ := Bool.and_eq_true_iff.1 valid
  have bound := digitsValue_lt fun d hd => of_decide_eq_true (List.all_eq_true.1 digits d hd)
  rwa [List.length_map, List.length_range] at bound

theorem mag_readField_lt (s : State) (a : Addr) {n : Nat} (pos : 0 < n)
    (valid : (decField (readField s a n)).valid = true) : (decField (readField s a n)).mag < 10 ^ (2 * n - 1) := by
  have bound := mag_lt_of_valid (List.ne_nil_of_length_pos (by rwa [readField_length])) valid
  rwa [readField_length] at bound

/-- A multiplicand with as many bytes of leading zeros as the multiplier is long leaves room for the product (R506). -/
theorem mul_lt_of_room {L1 L2 x y : Nat} (shorter : L2 < L1) (room : x < 10 ^ (2 * (L1 - L2) - 1))
    (hy : y < 10 ^ (2 * L2 - 1)) : x * y < 10 ^ (2 * L1 - 1) :=
  calc x * y < 10 ^ (2 * (L1 - L2) - 1) * 10 ^ (2 * L2 - 1) := Nat.mul_lt_mul'' room hy
    _ = 10 ^ (2 * (L1 - L2) - 1 + (2 * L2 - 1)) := (Nat.pow_add ..).symm
    _ ≤ 10 ^ (2 * L1 - 1) := Nat.pow_le_pow_right (by decide) (by omega)

/-! ## The instructions (R505 to R507) -/

/-- MP and DP past their checks on lengths and codes: the operation on the two values. -/
theorem whenShorter_onFields_of_valid {L1 L2 : Nat} (s : State) (op : Config.DecimalOp) (a1 a2 : Addr)
    (k : DecValue → DecValue → Result) (eight : L2 ≤ 8) (shorter : L2 < L1)
    (valid : ((decField (readField s a1 L1)).valid && (decField (readField s a2 L2)).valid) = true) :
    whenShorter L1 L2 s (onFields s op a1 L1 a2 L2 k) =
      k (decField (readField s a1 L1)) (decField (readField s a2 L2)) :=
  (whenShorter_of_shorter L1 L2 s _ eight shorter).trans (onFields_of_valid s op a1 L1 a2 L2 k valid)

/-- Settles O54: past their checks MP and DP are the branch that the room for the product, or the divisor and the size
of the quotient, select. -/
theorem decimalProducts : Obligations.DecimalProducts := by
  intro s l1 l2 b1 b2 d1 d2 canonical a1 L1 L2 u v valid1 valid2
  have valid : (u.valid && v.valid) = true := Bool.and_eq_true_iff.2 ⟨valid1, valid2⟩
  refine ⟨setsCc_of (congrArg finish (if_pos valid)), fun eight shorter => ?_⟩
  have operate := whenShorter_onFields_of_valid s (a1 := a1) (a2 := ea s b2 d2) (eight := eight) (shorter := shorter)
    (valid := valid)
  have short : L1 ≤ 2 ^ 24 := by omega
  refine ⟨fun room => ⟨?fits, stores_of canonical ?product ?mp⟩, fun nonzero fits => stores_of canonical ?quotient ?dp,
    fun failed => traps_of (fun _ => rfl) (congrArg finish ((operate .divide _).trans ?trap))⟩
  case fits => exact mul_lt_of_room shorter room (mag_readField_lt s _ l2.toNat.succ_pos valid2)
  case mp => exact congrArg finish ((operate .multiply _).trans (if_neg (Nat.not_le.2 room)))
  case dp => exact congrArg finish ((operate .divide _).trans ((if_neg nonzero).trans (if_neg (Nat.not_le.2 fits))))
  case product =>
    rw [encField_length l1.toNat.succ_pos]
    exact short
  case quotient =>
    rw [List.length_append, encField_length (Nat.sub_pos_of_lt shorter), encField_length l2.toNat.succ_pos,
      Nat.sub_add_cancel shorter.le]
    exact short
  case trap =>
    by_cases zero : v.mag = 0
    · exact if_pos zero
    · exact (if_neg zero).trans (if_pos (failed.resolve_left zero))

end Sys2Proof.Machine

/-! The interval timer (spec/60_exceptions.md R572, R574, R580): its tick, and the delivery of its request. -/

namespace Sys2Proof.Machine

/-! ## The tick -/

/-- A tick stores the word at 80 and sets the pending flag if the word crosses zero downward. -/
theorem timerTick_eq (s : State) : timerTick s = { write32 s 80 (read32 s 80 - 256) with
    timerPending := s.timerPending || (!(read32 s 80).msb && (read32 s 80 - 256).msb) } := by
  have flag : (write32 s 80 (read32 s 80 - 256)).timerPending = s.timerPending := by
    rw [write32, onlyMem_writeBE 4]
  unfold timerTick
  dsimp only
  rw [← flag]
  split
  next crossed => rw [crossed, Bool.or_true]
  next stays => rw [Bool.eq_false_iff.2 stays, Bool.or_false]

/-- A downward crossing of zero, by the signs of the two words. -/
theorem crossesZero_iff (old new : Word) : (!old.msb && new.msb) = true ↔ 0 ≤ old.toInt ∧ new.toInt < 0 := by
  simp only [BitVec.msb_eq_toInt, Bool.and_eq_true, Bool.not_eq_true', decide_eq_false_iff_not, not_lt,
    decide_eq_true_eq]

/-- Settles O59: a tick is one store and one flag (`timerTick_eq`). -/
theorem timerTickCounts : Obligations.TimerTickCounts := by
  intro s canonical t old
  have changed : OnlyMem s (write32 s 80 (read32 s 80 - 256)) := onlyMem_writeBE 4 s 80 _
  obtain ⟨regs, fprs, -⟩ := frame_of_onlyMem [] [] changed
  have tick : t = _ := timerTick_eq s
  have word : read32 t 80 = read32 s 80 - 256 := by
    rw [tick]
    exact read32_write32 s 80 _ (memoryCanonical_rising canonical)
  refine ⟨word, ?pending, ?_⟩
  case pending => rw [word, ← crossesZero_iff, ← Bool.or_eq_true, tick]
  · rw [tick]
    refine ⟨sameOutside_write32 s 80 _, changed.psw, regs, fprs, ?_⟩
    rw [changed]
    simp only [SameControl, and_self]

/-! ## The delivery -/

theorem hasAsync_device_of_idle {s : State} (idle : ∀ d ∈ s.devices, d.async = false) (n : Nat) :
    hasAsync s (.device n) = false := by
  cases h : s.devices[n]? with
  | none => simp only [hasAsync, h, Option.any_none]
  | some d => simp only [hasAsync, h, Option.any_some, idle d (List.mem_of_getElem? h)]

/-- Step (a) with the timer alone newly pending and nothing queued. -/
theorem enqueueAsync_of_timer {s : State} (queue : s.queue = []) (idle : ∀ d ∈ s.devices, d.async = false)
    (pending : s.timerPending = true) : enqueueAsync s = { s with queue := [.timer] } := by
  have timer : hasAsync s .timer = true := pending
  have devices : ((List.range s.devices.length).map SourceId.device).filter (hasAsync s) = [] := by
    simp only [List.filter_eq_nil_iff, List.mem_map]
    rintro _ ⟨n, -, rfl⟩
    simp only [hasAsync_device_of_idle idle n, Bool.false_eq_true, not_false_eq_true]
  rw [enqueueAsync_frame, enqueueAsync_queue, queue]
  simp only [List.not_mem_nil, not_false_eq_true, decide_true, Bool.and_true, List.nil_append]
  rw [sources, List.filter_cons_of_pos timer, devices]

/-- The check that delivers the timer's request: once the new PSW is loaded, the counter starts again and the timer has
nothing pending that would keep it in the queue (R572, R580). -/
theorem boundaryCheck_of_timer {s : State} (queue : s.queue = []) (idle : ∀ d ∈ s.devices, d.async = false)
    (pending : s.timerPending = true) (enabled : s.psw.sm.getLsbD 0 = true) (due : deadTimeOver s = true)
    (loaded : (initiateTimer { s with queue := [.timer] }).result = .budget) :
    boundaryCheck s = { initiateTimer { s with queue := [.timer] } with sinceIrq := 0, queue := [] } := by
  have queued := enqueueAsync_of_timer queue idle pending
  have ready : deliverable s .timer = true :=
    (deliverable_iff s .timer).2 ⟨enabled, Bool.or_eq_true_iff.2 (.inl pending)⟩
  have found : (enqueueAsync s).queue.find? (deliverable s) = some .timer := by
    rw [queued]
    exact List.find?_cons_of_pos ready
  have check := boundaryCheck_of_find? s .timer found due
  rw [queued] at check
  have cleared : isPending (initiateTimer { s with queue := [.timer] }) .timer = false := by
    rw [initiateTimer, initiate_frame]
    rfl
  refine check.trans ((if_pos loaded).trans ?_)
  rw [initiateSource, List.filter_cons_of_neg (Bool.eq_false_iff.1 cleared)]
  rfl

/-- Settles O60: the check delivers the timer (`boundaryCheck_of_timer`) by an interruption whose swap of the PSW is
that of every class (`interruptionSwapsPsw`). -/
theorem timerInterruptDelivered : Obligations.TimerInterruptDelivered := by
  rintro s canonical budget queue idle pending enabled due ⟨ec, runs⟩ t
  obtain ⟨stored, outside, regs, fprs, ⟨-, -, -, cleared, -⟩, -, loads⟩ :=
    interruptionSwapsPsw { s with queue := [.timer], timerPending := false } 0x0080 canonical (24, 88)
      List.mem_cons_self
  obtain ⟨psw, result⟩ := loads ec
  have loaded : (initiateTimer { s with queue := [.timer] }).result = .budget :=
    result.trans ((if_neg runs).trans budget)
  have check : t = _ := boundaryCheck_of_timer queue idle pending enabled ((deadTimeOver_iff s).2 due) loaded
  rw [check]
  exact ⟨psw, cleared, rfl, rfl, loaded, stored, outside, regs, fprs⟩

end Sys2Proof.Machine

/-! The codes of the program interruption (spec/60_exceptions.md R541, R550). -/

namespace Sys2Proof.Machine

/-- Settles O16: every program interruption swaps the pair 40 and 104; its code is that of its condition. -/
theorem programInterruptionCodes : Obligations.ProgramInterruptionCodes := by
  refine fun s p listed => congrArg (initiate s 40 104) ?code
  revert p
  decide

end Sys2Proof.Machine
